-- ==== Sys2Proof/Word.lean ====
section
/-! DEFINITION. The word types of the block: bytes, the 16-bit values of the Checksum Engine and its
32-bit accumulator (00_scope.md R7, R9). -/

namespace Sys2Proof

/-- A byte: 8 bits, unsigned (R7, R8). -/
abbrev Byte := BitVec 8

/-- The width of `CRC`, `PREV`, `DEVCK` and of each entry of `TABLE` (R7). -/
abbrev Word16 := BitVec 16

/-- The width of `ACC`, the document's `deviceChecksumAccum` (R7, R13). -/
abbrev Word32 := BitVec 32

end Sys2Proof
end

