-- ==== Sys2Proof/Config.lean ====
section
/-! DEFINITION. The free values: what the spec leaves open and the block goes on after. Each is an opaque
function of the counter `State.free`, so nothing can be proved of the value and a new one is drawn each
time. The constants of 00_scope.md R6 are no parameters and stand in Machine/Operands.lean; the capacity
`BUF_CAP` (R7, R91) is the field `State.bufCap`. -/

namespace Sys2Proof.Config

/-- `CRC` after `RESET`: "left unspecified" (R130, R11). Assumption 3. -/
opaque freeCrc : Nat → Word16

/-- `PREV` after `RESET`: "left unspecified" (R130, R12). Assumption 3. -/
opaque freePrev : Nat → Word16

/-- `ACC` after `RESET`: "left unspecified" (R130, R13). Assumption 3. -/
opaque freeAcc : Nat → Word32

/-- `DEVCK` after `RESET`: "left unspecified" (R130, R14). Assumption 3. -/
opaque freeDevck : Nat → Word16

/-- `IDX` after `RESET`: "left unspecified" (R130), within the bound of R15. Assumption 3. -/
opaque freeIdx : Nat → Fin 65534

/-- `LEN + 2` after `RESET`: `LEN` is "left unspecified" (R130), within its range -2 to 65533 (R16).
Assumption 3. -/
opaque freeLenField : Nat → Word16

/-- `MINLEN(Unknown) - 9`: R81 takes "a kind" and states no length for this one; by R50 the result is "9 or 10".
Assumption 6. -/
opaque freeMinLen : Nat → Fin 2

end Sys2Proof.Config
end

