-- ==== Sys2Proof/Syntax.lean ====
section
/-! DEFINITION. The operations of the block as syntax: one constructor of `Instr` for each of the 26
rows of spec/opcode_table.json (2 port commands, 16 unit operations, 5 events, 3 frame formats), with
the operands that 30_encoding.md R50, R52, R53 give each; and the requests through which one reaches
the block. -/

namespace Sys2Proof

/-- The document's `FrameKind` (10_state.md R19). `unknown` is the verdict of a miss. -/
inductive Kind where
  | unknown
  | batteryInfo
  | chart
  | chartDisplay
deriving DecidableEq, Repr

/-- A kind other than Unknown: the operand of `DISPATCH` (43_assembly_state_machine.md R99,
"a kind `k` other than Unknown"). -/
inductive FrameKind where
  | batteryInfo
  | chart
  | chartDisplay
deriving DecidableEq, Repr

/-- One operation of the block. -/
inductive Instr where
  -- Port commands (R50, R51).
  /-- `RESET`, code `0x00` (R130). -/
  | reset
  /-- `DELIVER`, code `0x01`, with its batch of newly arrived bytes (R96). -/
  | deliver (batch : List Byte)
  -- Unit operations of the Checksum Engine.
  /-- `TBLGEN`, code `0x10` (R70). -/
  | tblgen
  /-- `CRCSTEP`, code `0x11` (R72). -/
  | crcstep (crc : Word16) (byte : Byte)
  /-- `CRCPAIR`, code `0x12`: byte sequence `B` and length `F` (R73). -/
  | crcpair (bytes : List Byte) (F : Int)
  /-- `CKVALID`, code `0x13` (R77). -/
  | ckvalid (bytes : List Byte)
  -- Unit operations of the Frame Classifier.
  /-- `FLEN`, code `0x20` (R80). -/
  | flen (bytes : List Byte)
  /-- `MINLEN`, code `0x21` (R81). -/
  | minlen (k : Kind)
  /-- `SIGBI`, code `0x22` (R82). -/
  | sigbi (bytes : List Byte)
  /-- `SIGCH`, code `0x23` (R83). -/
  | sigch (bytes : List Byte)
  /-- `SIGCD`, code `0x24` (R84). -/
  | sigcd (bytes : List Byte)
  /-- `TRAILER`, code `0x25` (R85). -/
  | trailer (bytes : List Byte)
  /-- `CLASSIFY`, code `0x26` (R86). -/
  | classify (bytes : List Byte)
  -- Unit operations of the ByteBuffer.
  /-- `APPEND`, code `0x30` (R90). -/
  | append (batch : List Byte)
  /-- `TRUNC`, code `0x31` (R92). -/
  | trunc (count : Nat)
  /-- `CLEAR`, code `0x32` (R93). -/
  | clear
  -- Unit operations of the Assembly State Machine.
  /-- `MISSUPD`, code `0x40` (R98). -/
  | missupd (k : Kind)
  /-- `DISPATCH`, code `0x41` (R99 to R102). -/
  | dispatch (k : FrameKind)
  -- Events (R52, R104).
  /-- `FRAME_BI`, code `0x80`: hand-over to the Battery-Info Decoder. -/
  | evFrameBi (bytes : List Byte)
  /-- `FRAME_CHART`, code `0x81`: hand-over to the Waveform Decoder. -/
  | evFrameChart (bytes : List Byte)
  /-- `FRAME_CD`, code `0x82`: notice to the Waveform Decoder. -/
  | evFrameCd
  /-- `RX_DROP`, code `0x90`: "drop N bytes from your own receive buffer". -/
  | evRxDrop (count : Nat)
  /-- `RX_CLEAR`, code `0x91`: "clear your receive buffer entirely". -/
  | evRxClear
  -- Frame formats on the wire (R53, R54): a run of bytes pushed by the transport that begins with the
  -- format's signature. What follows the signature is the operand, complete frame or not.
  /-- `FRAME.BI`: `00 24 24 FF FE`, then `tail` (bytes 5 onwards). -/
  | frameBi (tail : List Byte)
  /-- `FRAME.CH`: `24 24`, the length field `L` little-endian, `FF 01`, then `rest` (bytes 6 onwards). -/
  | frameCh (L : Word16) (rest : List Byte)
  /-- `FRAME.CD`: `24 24 0A 00 FF 02`, then `rest` (bytes 6 onwards). -/
  | frameCd (rest : List Byte)
deriving DecidableEq, Repr

/-- Where an operation reaches the block: its code (or its bytes) and the place it is presented at.
The two numberings of 30_encoding.md, operation codes and wire bytes, overlap (`0x24` is `SIGCD` and
also a frame's first byte), so a request says which of them its bytes are in. -/
inductive Request where
  /-- The command port: an 8-bit code and the operand bytes that follow it (R51). Only `0x00` and `0x01`
  are commands there; every other code is reserved (R57). -/
  | port (code : Byte) (operand : List Byte)
  /-- The document's push interface "delivering `newBytes: bytes`" (R51): the transport's bytes as they
  stand on the wire. -/
  | push (bytes : List Byte)
  /-- One operation named by its code "so that a trace or a table can name" it (R50). This is no port of
  the block: nothing outside can invoke a unit operation. It lets a model run one operation alone. -/
  | trace (code : Byte) (operand : List Byte)
deriving DecidableEq, Repr

end Sys2Proof
end

