-- ==== Sys2Proof/WellFormed.lean ====
section
/-! DEFINITION. When an operation's operands are ones the spec allows it and the encoding can hold. -/

namespace Sys2Proof

/-- The operand checks. `FLEN` and `CKVALID` need four bytes (R80, R77); `CRCPAIR` needs `F <= |B|` (R73)
and an `F` in the range of `LEN`, -2 to 65533 (R16); an `RX_DROP` count is 4 to 65535 (R52). A `TRUNC` count is
bounded by the buffer alone (R92), so every count is admitted here. Every other
operand is admitted at every value of its type; for the bytes of `FRAME_BI` and `FRAME_CHART` that is assumption 20. -/
def Instr.wf : Instr → Bool
  | .reset => true
  | .deliver _ => true
  | .tblgen => true
  | .crcstep _ _ => true
  | .crcpair bytes F => decide (-2 ≤ F) && decide (F ≤ 65533) && decide (F ≤ (bytes.length : Int))
  | .ckvalid bytes => decide (4 ≤ bytes.length)
  | .flen bytes => decide (4 ≤ bytes.length)
  | .minlen _ => true
  | .sigbi _ => true
  | .sigch _ => true
  | .sigcd _ => true
  | .trailer _ => true
  | .classify _ => true
  | .append _ => true
  | .trunc _ => true
  | .clear => true
  | .missupd _ => true
  | .dispatch _ => true
  | .evFrameBi _ => true
  | .evFrameChart _ => true
  | .evFrameCd => true
  | .evRxDrop count => decide (4 ≤ count) && decide (count ≤ 65535)
  | .evRxClear => true
  | .frameBi _ => true
  | .frameCh _ _ => true
  | .frameCd _ => true

end Sys2Proof
end

