-- ==== Sys2Proof/Decode.lean ====
section
/-! DEFINITION. The decoder, total on any request and rejecting by name, and after it the encoder
(30_encoding.md R50 to R56). The codes and the wire signatures are the spec's. The layout of a unit
operation's or an event's operand bytes after its code is the model's (assumption 8): the spec's table
gives those operations eight bits each and no operand field. -/

namespace Sys2Proof

/-- Why a request is no operation. -/
inductive Reject where
  /-- No operation has this code at the place it is presented (R57). -/
  | reservedCode (code : Byte)
  /-- The operand bytes are fewer than the operation with this code takes. -/
  | operandTooShort (code : Byte)
  /-- Operand bytes are left over after the operation with this code (R50, R51: `RESET` has none). -/
  | trailingOperand (code : Byte)
  /-- The kind byte is none of the codes of its field (R19: 2 bits). -/
  | reservedKind (code : Byte)
  /-- The operand stands for a count outside the operation's range (R52: `4 <= N <= 65535`). -/
  | countOutOfRange (code : Byte)
  /-- A `CRCPAIR` whose `F` exceeds the bytes given (R73, "a model must not call"). -/
  | lengthBeyondBytes
  /-- Pushed bytes that begin with none of the three signatures (R58). -/
  | noSignature
deriving DecidableEq, Repr

/-! ### Byte order -/

/-- Two bytes as one 16-bit value, the byte at the lower index the less significant (R30, R32). -/
def le16 (lo hi : Byte) : Word16 := lo.zeroExtend 16 ||| (hi.zeroExtend 16 <<< 8)

/-- The two bytes of a 16-bit value in the order of the wire (R30). -/
def le16Bytes (w : Word16) : List Byte := [w.truncate 8, (w >>> 8).truncate 8]

/-- A run of bytes as a natural number, little-endian. -/
def leNat : List Byte → Nat
  | [] => 0
  | b :: bs => b.toNat + 256 * leNat bs

/-- The `n` low bytes of a natural number, the least significant first. -/
def wordBytes : Nat → Nat → List Byte
  | 0, _ => []
  | n + 1, w => BitVec.ofNat 8 w :: wordBytes n (w / 256)

/-! ### The code space: commands, unit operations and events -/

/-- The code of a kind in `KIND` (R19). -/
def kindCode : Kind → BitVec 2
  | .unknown => 0
  | .batteryInfo => 1
  | .chart => 2
  | .chartDisplay => 3

/-- The case number of a dispatched kind, in the order the opcode table lists the three (assumption 8). -/
def frameKindCode : FrameKind → BitVec 2
  | .batteryInfo => 0
  | .chart => 1
  | .chartDisplay => 2

/-- The kind whose code a byte is (R19). -/
def kindOfByte (b : Byte) : Option Kind :=
  [Kind.unknown, .batteryInfo, .chart, .chartDisplay].find? fun k => (kindCode k).zeroExtend 8 == b

/-- The dispatched kind whose case number a byte is. -/
def frameKindOfByte (b : Byte) : Option FrameKind :=
  [FrameKind.batteryInfo, .chart, .chartDisplay].find? fun k => (frameKindCode k).zeroExtend 8 == b

/-- Operands of an operation that takes none. -/
def parseNone (code : Byte) (i : Instr) : List Byte → Except Reject Instr
  | [] => .ok i
  | _ :: _ => .error (.trailingOperand code)

/-- One kind byte. -/
def parseKind (code : Byte) (mk : Kind → Instr) : List Byte → Except Reject Instr
  | [] => .error (.operandTooShort code)
  | [b] => match kindOfByte b with
    | some k => .ok (mk k)
    | none => .error (.reservedKind code)
  | _ :: _ :: _ => .error (.trailingOperand code)

/-- One case byte of `DISPATCH`. -/
def parseFrameKind (code : Byte) (mk : FrameKind → Instr) : List Byte → Except Reject Instr
  | [] => .error (.operandTooShort code)
  | [b] => match frameKindOfByte b with
    | some k => .ok (mk k)
    | none => .error (.reservedKind code)
  | _ :: _ :: _ => .error (.trailingOperand code)

/-- A count, any natural number: two bytes, little-endian, and as many more as the number needs, so that no zero
byte stands last behind them. -/
def parseCount (code : Byte) (mk : Nat → Instr) : List Byte → Except Reject Instr
  | lo :: hi :: more =>
    if more.getLast? = some 0 then .error (.trailingOperand code) else .ok (mk (leNat (lo :: hi :: more)))
  | [] => .error (.operandTooShort code)
  | [_] => .error (.operandTooShort code)

/-- The count `N` of `RX_DROP`, 4 to 65535 (R52), as `N - 4` in two bytes, little-endian. -/
def parseDrop (code : Byte) : List Byte → Except Reject Instr
  | [lo, hi] =>
    if (le16 lo hi).toNat + 4 ≤ 65535 then .ok (.evRxDrop ((le16 lo hi).toNat + 4))
    else .error (.countOutOfRange code)
  | [] => .error (.operandTooShort code)
  | [_] => .error (.operandTooShort code)
  | _ :: _ :: _ :: _ => .error (.trailingOperand code)

/-- A register value of two bytes, little-endian, then one byte. -/
def parseCrcStep (code : Byte) : List Byte → Except Reject Instr
  | [lo, hi, b] => .ok (.crcstep (le16 lo hi) b)
  | [] => .error (.operandTooShort code)
  | [_] => .error (.operandTooShort code)
  | [_, _] => .error (.operandTooShort code)
  | _ :: _ :: _ :: _ :: _ => .error (.trailingOperand code)

/-- `F` as its length field `L = F + 2`, two bytes little-endian (R55), then the byte sequence. -/
def parseCrcPair (code : Byte) : List Byte → Except Reject Instr
  | lo :: hi :: bytes =>
    if ((le16 lo hi).toNat : Int) - 2 ≤ (bytes.length : Int) then
      .ok (.crcpair bytes ((le16 lo hi).toNat - 2))
    else .error .lengthBeyondBytes
  | [] => .error (.operandTooShort code)
  | [_] => .error (.operandTooShort code)

/-- A byte sequence of any length. -/
def parseBytes (mk : List Byte → Instr) (bytes : List Byte) : Except Reject Instr := .ok (mk bytes)

/-- A byte sequence of at least four bytes (R77, R80). -/
def parseFourOrMore (code : Byte) (mk : List Byte → Instr) (bytes : List Byte) : Except Reject Instr :=
  if 4 ≤ bytes.length then .ok (mk bytes) else .error (.operandTooShort code)

/-- One row of the code space: an 8-bit code and the reading of the operand bytes that follow it. -/
structure OpRow where
  code : Byte
  parse : List Byte → Except Reject Instr

/-- The 18 operation codes of R50 and the 5 event codes of R52. -/
def opTable : List OpRow :=
  [⟨0x00, parseNone 0x00 .reset⟩,
   ⟨0x01, parseBytes .deliver⟩,
   ⟨0x10, parseNone 0x10 .tblgen⟩,
   ⟨0x11, parseCrcStep 0x11⟩,
   ⟨0x12, parseCrcPair 0x12⟩,
   ⟨0x13, parseFourOrMore 0x13 .ckvalid⟩,
   ⟨0x20, parseFourOrMore 0x20 .flen⟩,
   ⟨0x21, parseKind 0x21 .minlen⟩,
   ⟨0x22, parseBytes .sigbi⟩,
   ⟨0x23, parseBytes .sigch⟩,
   ⟨0x24, parseBytes .sigcd⟩,
   ⟨0x25, parseBytes .trailer⟩,
   ⟨0x26, parseBytes .classify⟩] ++
  [⟨0x30, parseBytes .append⟩,
   ⟨0x31, parseCount 0x31 .trunc⟩,
   ⟨0x32, parseNone 0x32 .clear⟩,
   ⟨0x40, parseKind 0x40 .missupd⟩,
   ⟨0x41, parseFrameKind 0x41 .dispatch⟩,
   ⟨0x80, parseBytes .evFrameBi⟩,
   ⟨0x81, parseBytes .evFrameChart⟩,
   ⟨0x82, parseNone 0x82 .evFrameCd⟩,
   ⟨0x90, parseDrop 0x90⟩,
   ⟨0x91, parseNone 0x91 .evRxClear⟩]

/-- Decode an operation by its code and operand bytes. -/
def decodeOp (code : Byte) (operand : List Byte) : Except Reject Instr :=
  match opTable.find? fun r => r.code == code with
  | some r => r.parse operand
  | none => .error (.reservedCode code)

/-- The codes the command port accepts (R57). -/
def isCommandCode (code : Byte) : Bool := code == 0x00 || code == 0x01

/-! ### The wire space: the three frame formats -/

/-- Which frame format a run of wire bytes begins (R53, R54). -/
def decodeFrame : List Byte → Except Reject Instr
  | b0 :: b1 :: b2 :: b3 :: b4 :: tail =>
    if [b0, b1, b2, b3, b4] = [0x00, 0x24, 0x24, 0xFF, 0xFE] then .ok (.frameBi tail)
    else match tail with
      | b5 :: rest =>
        if [b0, b1, b4, b5] = [0x24, 0x24, 0xFF, 0x01] then .ok (.frameCh (le16 b2 b3) rest)
        else if [b0, b1, b2, b3, b4, b5] = [0x24, 0x24, 0x0A, 0x00, 0xFF, 0x02] then .ok (.frameCd rest)
        else .error .noSignature
      | [] => .error .noSignature
  | _ => .error .noSignature

/-! ### Requests -/

/-- Decode a request where it is presented. At the port only `0x00` and `0x01` are commands (R57). Bytes
pushed by the transport are a delivery whatever they are (R51); those that begin with a signature are
read as that frame format. -/
def decode : Request → Except Reject Instr
  | .port code operand =>
    if isCommandCode code then decodeOp code operand else .error (.reservedCode code)
  | .push bytes => match decodeFrame bytes with
    | .ok i => .ok i
    | .error _ => .ok (.deliver bytes)
  | .trace code operand => decodeOp code operand

/-! ### Words of the opcode table -/

/-- The fewest operand bytes of the operation with this code: the zero bytes that stand above a table word
which gives the code alone. -/
def minOperandBytes (code : Byte) : Nat :=
  if code == 0x11 then 3
  else if code == 0x12 || code == 0x31 || code == 0x90 then 2
  else if code == 0x13 || code == 0x20 then 4
  else if code == 0x21 || code == 0x40 || code == 0x41 then 1
  else 0

/-- The request that a word of spec/opcode_table.json stands for. A 48-bit row is `W(B)` of R54, with
`B[0]` in bits 47:40, pushed by the transport. Any other row is a code in bits 7:0 with its operand bytes
above it, presented at the command port, or by name where the code is a unit operation's or an event's. -/
def tableRequest (nbits w : Nat) : Request :=
  if nbits = 48 then .push (wordBytes 6 w).reverse
  else
    let code : Byte := BitVec.ofNat 8 w
    let operand := wordBytes (max (nbits / 8 - 1) (minOperandBytes code)) (w / 256)
    if !isCommandCode code && opTable.any (fun r => r.code == code) then .trace code operand
    else .port code operand

/-- The instruction the decoder reads from a word of spec/opcode_table.json. -/
def decodeTableWord (nbits w : Nat) : Option Instr :=
  match tableRequest nbits w with
  | .push bytes => (decodeFrame bytes).toOption
  | .port code operand => (decode (.port code operand)).toOption
  | .trace code operand => (decode (.trace code operand)).toOption

/-! ### The encoder -/

/-- The signature bytes of a BatteryInfo frame (R6, `SIG_BI`). -/
def sigBiBytes : List Byte := [0x00, 0x24, 0x24, 0xFF, 0xFE]

/-- The wire bytes of the first six bytes of a Chart frame with length field `L` (R53). -/
def chartHeader (L : Word16) : List Byte := [0x24, 0x24] ++ le16Bytes L ++ [0xFF, 0x01]

/-- The signature bytes of a ChartDisplay frame (R6, `SIG_CD`). -/
def sigCdBytes : List Byte := [0x24, 0x24, 0x0A, 0x00, 0xFF, 0x02]

/-- The operand byte of a kind. -/
def kindByte (k : Kind) : Byte := (kindCode k).zeroExtend 8

/-- The operand byte of a dispatched kind. -/
def frameKindByte (k : FrameKind) : Byte := (frameKindCode k).zeroExtend 8

/-- The operand bytes of a count: two, or as many as it needs. -/
def countBytes (n : Nat) : List Byte := wordBytes (max 2 (n.log2 / 8 + 1)) n

/-- The request that presents an operation: its code with its operand bytes, or its wire bytes. -/
def encode : Instr → Request
  | .reset => .port 0x00 []
  | .deliver batch => .port 0x01 batch
  | .tblgen => .trace 0x10 []
  | .crcstep crc byte => .trace 0x11 (le16Bytes crc ++ [byte])
  | .crcpair bytes F => .trace 0x12 (le16Bytes (BitVec.ofNat 16 (F + 2).toNat) ++ bytes)
  | .ckvalid bytes => .trace 0x13 bytes
  | .flen bytes => .trace 0x20 bytes
  | .minlen k => .trace 0x21 [kindByte k]
  | .sigbi bytes => .trace 0x22 bytes
  | .sigch bytes => .trace 0x23 bytes
  | .sigcd bytes => .trace 0x24 bytes
  | .trailer bytes => .trace 0x25 bytes
  | .classify bytes => .trace 0x26 bytes
  | .append batch => .trace 0x30 batch
  | .trunc count => .trace 0x31 (countBytes count)
  | .clear => .trace 0x32 []
  | .missupd k => .trace 0x40 [kindByte k]
  | .dispatch k => .trace 0x41 [frameKindByte k]
  | .evFrameBi bytes => .trace 0x80 bytes
  | .evFrameChart bytes => .trace 0x81 bytes
  | .evFrameCd => .trace 0x82 []
  | .evRxDrop count => .trace 0x90 (le16Bytes (BitVec.ofNat 16 (count - 4)))
  | .evRxClear => .trace 0x91 []
  | .frameBi tail => .push (sigBiBytes ++ tail)
  | .frameCh L rest => .push (chartHeader L ++ rest)
  | .frameCd rest => .push (sigCdBytes ++ rest)

end Sys2Proof
end

