-- ==== Sys2Proof/Machine/CrcTable.lean ====
section
/-! DEFINITION. The CRC table and the one-byte CRC step (40_checksum_engine.md R70, R72). -/

namespace Sys2Proof.Machine

/-- `TABLE`: 256 entries of 16 bits (10_state.md R23). -/
structure CrcTable where
  entries : List Word16
  size_eq : entries.length = 256
deriving DecidableEq, Repr

/-- `POLY`, the reflected form of the CRC-16/X.25 polynomial (R6). -/
def poly : Word16 := 0x8408

/-- One round of the recurrence: the test is on bit 0 before the shift, the shift is logical (R70). -/
def polyRound (v : Word16) : Word16 :=
  if v.getLsbD 0 then (v >>> 1) ^^^ poly else v >>> 1

/-- `n` rounds. -/
def polyRounds : Nat → Word16 → Word16
  | 0, v => v
  | n + 1, v => polyRounds n (polyRound v)

/-- `TABLE[b]`: eight rounds from the zero-extended byte value (R70). -/
def tableEntry (b : Nat) : Word16 := polyRounds 8 (BitVec.ofNat 16 b)

/-- What `TBLGEN` builds (R70). -/
def builtTable : CrcTable := ⟨(List.range 256).map tableEntry, by simp⟩

/-- `TABLE[i]`; every byte value is in range (R23). -/
def CrcTable.read (T : CrcTable) (i : Byte) : Word16 :=
  T.entries[i.toNat]'(T.size_eq.symm ▸ i.isLt)

/-- `CRCSTEP(crc, byte) = (crc >> 8) XOR TABLE[(crc XOR zext_16(byte)) AND 0xFF]` (R72). -/
def crcStep (T : CrcTable) (crc : Word16) (byte : Byte) : Word16 :=
  (crc >>> 8) ^^^ T.read (((crc ^^^ byte.zeroExtend 16) &&& 0x00FF).truncate 8)

end Sys2Proof.Machine
end

