-- ==== Sys2Proof/Machine/State.lean ====
section
/-! DEFINITION. The state of the block (10_state.md R10 to R28), with the fields the model adds for the
block's interface; the reasons a step stops; and the state after reset. -/

namespace Sys2Proof.Machine

/-- The sequencing register's values (R18). -/
inductive Phase where
  | idle
  | classifying
  | complete
  | insufficient
  | desyncSuspect
deriving DecidableEq, Repr

/-- The error taxonomy held in `CAUSE` (R20, R111). `malformedPayload` is never written by the block. -/
inductive Cause where
  | none
  | incompleteFrame
  | unrecognizedSignature
  | trailerMissing
  | checksumMismatch
  | malformedPayload
  | partialChartFrame
deriving DecidableEq, Repr

/-- How the most recent `DELIVER` ended (R21, R105). -/
inductive Result where
  | idle
  | decoded
  | waiting
  | desync
  | partialDiscard
  | refused
deriving DecidableEq, Repr

/-- An item the block puts out during a command (R52, R104). -/
inductive Event where
  | frameBi (bytes : List Byte)
  | frameChart (bytes : List Byte)
  | frameCd
  | rxDrop (count : Nat)
  | rxClear
deriving DecidableEq, Repr

/-- What a unit operation returns to whoever invoked it (the Result column of R50). -/
inductive OpResult where
  | none
  | crc (value : Word16)
  | pair (standardCrc deviceChecksum : Word16)
  | bool (value : Bool)
  | length (F : Int)
  | count (n : Nat)
  | verdict (kind : Kind) (cause : Cause)
deriving DecidableEq, Repr

/-- The scratch registers of the Checksum Engine (R11 to R15). -/
structure Engine where
  /-- `CRC` (R11). -/
  crc : Word16
  /-- `PREV` (R12). -/
  prev : Word16
  /-- `ACC` (R13). -/
  acc : Word32
  /-- `DEVCK` (R14). -/
  devck : Word16
  /-- `IDX` (R15). -/
  idx : Nat
deriving DecidableEq, Repr

/-- The whole state of the block (R10), then the model's own fields: the block's interface and the parameter
`BUF_CAP`, which R10 says are not state of the block. -/
structure State where
  /-- `BUF`: byte `i` stands at index `i`, the oldest at 0 (R24). -/
  buf : List Byte
  /-- `MISS` (R17). -/
  miss : BitVec 2
  /-- `KIND` (R19). -/
  kind : Kind
  /-- `CAUSE` (R20). -/
  cause : Cause
  /-- `RESULT` (R21). -/
  result : Result
  /-- `FAULT`: bit 0 `OVERFLOW`, bit 1 `ILLCMD` (R22). -/
  fault : BitVec 2
  /-- `PHASE` (R18). -/
  phase : Phase
  /-- `CRC`, `PREV`, `ACC`, `DEVCK`, `IDX` (R11 to R15). -/
  eng : Engine
  /-- `LEN` (R16). -/
  len : Int
  /-- `TABLE` (R23). -/
  table : CrcTable
  /-- Model's own: the ordered event list of the current, or the last, command (R8 `emit`, R41). -/
  events : List Event
  /-- Model's own: what the last unit operation run alone returned. -/
  value : OpResult
  /-- Model's own: what the outside presents to the block, in order, the next one first (R39). -/
  pending : List Request
  /-- Model's own: the parameter `BUF_CAP`, `none` for `unbounded` (R7, R91). -/
  bufCap : Option Nat
  /-- Model's own: how many free values have been drawn (Config.lean). -/
  free : Nat
deriving DecidableEq, Repr

/-- Why a step stops with a fault. The block has no fatal error of its own (R22, R111); each is an operand
outside the range its rule states, which the spec never uses and gives no effect (20_memory.md R33, 93 U4). -/
inductive Fault where
  /-- Raised by `FLEN` and `CKVALID` given fewer than four bytes (R77, R80) and by `CRCPAIR` with `F > |B|`
  (R73). Safe: the model stops where the spec says a model must not go. -/
  | readOutside
  /-- Raised by `TRUNC` of more bytes than the buffer holds (R92). Safe: same ground. -/
  | truncateOutside
  /-- Raised by an `RX_DROP` named alone whose operand is not in `4 <= N <= 65535`, and by a `DISPATCH(Chart)`
  named alone that would emit one: there is no such event (R52, R102).
  Safe: the model stops where the spec gives no event. -/
  | dropOutside
deriving DecidableEq, Repr

/-- Why a step is refused. -/
inductive Refusal where
  /-- Raised by `exec` for an instruction that has no meaning yet. Safe. -/
  | notModelled (mnemonic : String)
  /-- Raised by `step` for a request that is no operation of the spec, for the decoder's reason: a `RESET`
  followed by operand bytes, or a name in a trace whose code or operand is malformed. (A reserved code at the
  port is no refusal: it sets `FAULT.ILLCMD`, R57.) Safe: the spec gives such a request no meaning. -/
  | undecodable (why : Reject)
deriving DecidableEq, Repr

/-- The scratch registers right after power-on. The spec leaves them "unspecified" (R28); zero is this model's
value (assumption 2). -/
def Engine.reset : Engine := { crc := 0, prev := 0, acc := 0, devck := 0, idx := 0 }

/-- The machine right after reset (R28, R130): the spec's value in every field but `eng` and `len`
(assumption 2); `BUF_CAP` at the spec's default, `unbounded` (R7); nothing presented yet. -/
def State.reset : State where
  buf := []
  miss := 0
  kind := .unknown
  cause := .none
  result := .idle
  fault := 0
  phase := .idle
  eng := Engine.reset
  len := 0
  table := builtTable
  events := []
  value := .none
  pending := []
  bufCap := none
  free := 0

end Sys2Proof.Machine
end

