-- ==== Sys2Proof/Machine/Flags.lean ====
section
/-! DEFINITION. The status registers as software reads them: their codes (10_state.md R18 to R22, 30_encoding.md
R52) and the sticky bits of `FAULT`. -/

namespace Sys2Proof.Machine

/-- The code of `PHASE` (R18). -/
def phaseCode : Phase → BitVec 3
  | .idle => 0
  | .classifying => 1
  | .complete => 2
  | .insufficient => 3
  | .desyncSuspect => 4

/-- The code of `CAUSE` (R20). -/
def causeCode : Cause → BitVec 3
  | .none => 0
  | .incompleteFrame => 1
  | .unrecognizedSignature => 2
  | .trailerMissing => 3
  | .checksumMismatch => 4
  | .malformedPayload => 5
  | .partialChartFrame => 6

/-- The code of `RESULT` (R21). -/
def resultCode : Result → BitVec 3
  | .idle => 0
  | .decoded => 1
  | .waiting => 2
  | .desync => 3
  | .partialDiscard => 4
  | .refused => 5

/-- The code of an event (R52). -/
def eventCode : Event → Byte
  | .frameBi _ => 0x80
  | .frameChart _ => 0x81
  | .frameCd => 0x82
  | .rxDrop _ => 0x90
  | .rxClear => 0x91

/-- `FAULT.OVERFLOW`, bit 0 (R22). -/
def faultOverflow (f : BitVec 2) : Bool := f.getLsbD 0

/-- `FAULT.ILLCMD`, bit 1 (R22). -/
def faultIllCmd (f : BitVec 2) : Bool := f.getLsbD 1

/-- `FAULT.OVERFLOW <- 1`; the other bit is sticky (R22). -/
def setOverflow (f : BitVec 2) : BitVec 2 := f ||| 0b01

/-- `FAULT.ILLCMD <- 1`; the other bit is sticky (R22). -/
def setIllCmd (f : BitVec 2) : BitVec 2 := f ||| 0b10

end Sys2Proof.Machine
end

