-- ==== Sys2Proof/Machine/Operands.lean ====
section
/-! DEFINITION. What is read from a byte sequence: indexed bytes, the two 16-bit fields, the three signatures,
the trailer, and the minimum lengths (20_memory.md R30 to R34, 41_frame_classifier.md R80 to R85); with the
constants of 00_scope.md R6. Every read is of a byte that is present or answers that it is not (R33). -/

namespace Sys2Proof.Machine

/-! ### Constants of R6 -/

/-- `CRC_INIT`. -/
def crcInit : Word16 := 0xFFFF

/-- `CRC_RESIDUE`, the valid-frame constant. -/
def crcResidue : Word16 := 0xF0B8

/-- `DEV_XOR`, in the width of `ACC`. -/
def devXor : Word32 := 0x0000FFFF

/-- `MIN_BI`. -/
def minBi : Nat := 9

/-- `MIN_CH`. -/
def minCh : Nat := 10

/-- `MIN_CD`. -/
def minCd : Nat := 10

/-- `MISS_LIMIT`. -/
def missLimit : BitVec 2 := 3

/-! ### Reads -/

/-- `MemRead(a, 1)`: byte `a`, or nothing beyond the end (R32, R33). -/
def memRead1 (B : List Byte) (a : Nat) : Option Byte := B[a]?

/-- `MemRead(a, 2) = B[a] | (B[a+1] << 8)`, or nothing where a byte is beyond the end (R32, R33). -/
def memRead2 (B : List Byte) (a : Nat) : Option Word16 :=
  match memRead1 B a, memRead1 B (a + 1) with
  | some lo, some hi => some (le16 lo hi)
  | _, _ => none

/-- Byte `a` is present and is `v`. -/
def byteIs (B : List Byte) (a : Nat) (v : Byte) : Bool := memRead1 B a == some v

/-- The declared total length `L`, the length field at bytes 2 and 3 (R55). -/
def lengthField (B : List Byte) : Option Word16 := memRead2 B 2

/-- `FLEN(B) = L - 2`, a signed integer without wrap-around (R80). It needs four bytes. -/
def frameLength (B : List Byte) : Option Int :=
  (lengthField B).map fun L => (L.toNat : Int) - 2

/-- `RXCK`, the transmitted device checksum at bytes `F-2`, `F-1` (R56). -/
def receivedChecksum (B : List Byte) (F : Int) : Option Word16 :=
  if 2 ≤ F then memRead2 B (F - 2).toNat else none

/-- `SIGBI(B)` (R82). -/
def sigBi (B : List Byte) : Bool :=
  decide (5 ≤ B.length) && byteIs B 0 0x00 && byteIs B 1 0x24 && byteIs B 2 0x24 && byteIs B 3 0xFF
    && byteIs B 4 0xFE

/-- `SIGCH(B)`: bytes 2 and 3 are skipped (R83). -/
def sigCh (B : List Byte) : Bool :=
  decide (6 ≤ B.length) && byteIs B 0 0x24 && byteIs B 1 0x24 && byteIs B 4 0xFF && byteIs B 5 0x01

/-- `SIGCD(B)` (R84). -/
def sigCd (B : List Byte) : Bool :=
  decide (6 ≤ B.length) && byteIs B 0 0x24 && byteIs B 1 0x24 && byteIs B 2 0x0A && byteIs B 3 0x00
    && byteIs B 4 0xFF && byteIs B 5 0x02

/-- `TRAILER(B)`: the last two bytes of the whole sequence are `0D 0A` (R85). -/
def trailerOk (B : List Byte) : Bool :=
  decide (2 ≤ B.length) && byteIs B (B.length - 2) 0x0D && byteIs B (B.length - 1) 0x0A

/-- `MINLEN` of the three frame kinds (R81). -/
def minLength : FrameKind → Nat
  | .batteryInfo => minBi
  | .chart => minCh
  | .chartDisplay => minCd

/-- A frame kind as a `FrameKind` value of the document. -/
def kindOf : FrameKind → Kind
  | .batteryInfo => .batteryInfo
  | .chart => .chart
  | .chartDisplay => .chartDisplay

/-- `4 <= N <= 65535`, the range of an `RX_DROP` operand (R52) and of the declared length `L` of R102. -/
def dropCountOk (N : Int) : Bool := decide (4 ≤ N) && decide (N ≤ 65535)

/-! ### The buffer as memory -/

/-- The buffer as address and byte pairs: the address of a byte is its index (R24). -/
def Memory.cells (B : List Byte) : List Host.Cell := B.zipIdx.map fun p => (p.2, p.1)

/-- The canonical form of the memory: addresses rise by one from 0, so none repeats and none below the
length is missing. An unlisted address holds no byte (R33). -/
def Memory.wf (m : List Host.Cell) : Bool := m.map Prod.fst == List.range m.length

end Sys2Proof.Machine
end

