-- ==== Sys2Proof/Machine/Ops.lean ====
section
/-! DEFINITION. The operations the meanings are built from: the Checksum Engine's loop, the classifier, the
ByteBuffer, the miss counter with desync recovery, dispatch and the delivery loop. -/

namespace Sys2Proof.Machine

/-! ### Checksum Engine (40_checksum_engine.md) -/

/-- One iteration of the loop of `CRCPAIR` on the byte at `IDX` (R73): `PREV <- CRC`, the CRC step, and `ACC`
overwritten when `IDX < F - 2`, its high half `PREV XOR byte` and its low half the new `CRC`. -/
def crcIteration (T : CrcTable) (F : Int) (e : Engine) (byte : Byte) : Engine :=
  let crc := crcStep T e.crc byte
  { e with
    prev := e.crc
    crc := crc
    acc := if (e.idx : Int) < F - 2 then (e.crc ^^^ byte.zeroExtend 16) ++ crc else e.acc
    idx := e.idx + 1 }

/-- The loop of `CRCPAIR` over the bytes it still has to absorb (R73). -/
def crcLoop (T : CrcTable) (F : Int) : List Byte → Engine → Engine
  | [], e => e
  | b :: bs, e => crcLoop T F bs (crcIteration T F e b)

/-- `CRCPAIR(B, F)`, for `F <= |B|` (R73): the engine's registers afterwards, `standardCrc` in `CRC` and
`deviceChecksum` in `DEVCK`. No iteration runs when `F <= 0`. -/
def crcPair (T : CrcTable) (B : List Byte) (F : Int) (e : Engine) : Engine :=
  let e' := crcLoop T F (B.take F.toNat) { e with crc := crcInit, acc := 0, idx := 0 }
  { e' with devck := ((e'.acc ^^^ devXor) &&& devXor).truncate 16 }

/-- What `CKVALID` leaves in the scratch registers and its answer. -/
structure Checked where
  eng : Engine
  len : Int
  ok : Bool
deriving DecidableEq, Repr

/-- `CKVALID(B)` (R77). `F <- FLEN(B)`; false without another read when `F < 2` or `F > |B|`; otherwise both
tests, `standardCrc = 0xF0B8` and `deviceChecksum = RXCK`. With fewer than four bytes there is no `F`. -/
def ckValid (T : CrcTable) (B : List Byte) (eng : Engine) (len : Int) : Checked :=
  match frameLength B with
  | none => { eng := eng, len := len, ok := false }
  | some F =>
    if F < 2 ∨ (B.length : Int) < F then { eng := eng, len := F, ok := false }
    else
      let e := crcPair T B F eng
      { eng := e, len := F, ok := e.crc == crcResidue && receivedChecksum B F == some e.devck }

/-! ### Frame Classifier (41_frame_classifier.md) -/

/-- What `CLASSIFY` leaves in the scratch registers and its verdict. -/
structure Classified where
  eng : Engine
  len : Int
  kind : Kind
  cause : Cause
deriving DecidableEq, Repr

/-- `CLASSIFY(B)` (R86, with the causes of R112), tests in the order signature, minimum length, trailer,
`LEN` against `n`, checksum (R115). A Chart or ChartDisplay signature has six bytes, so `FLEN` has its four. -/
def classify (T : CrcTable) (B : List Byte) (eng : Engine) (len : Int) : Classified :=
  if sigBi B then
    if B.length < minLength .batteryInfo then ⟨eng, len, .unknown, .incompleteFrame⟩
    else if !trailerOk B then ⟨eng, len, .unknown, .trailerMissing⟩
    else ⟨eng, len, .batteryInfo, .none⟩
  else if sigCh B || sigCd B then
    let k : FrameKind := if sigCh B then .chart else .chartDisplay
    if B.length < minLength k then ⟨eng, len, .unknown, .incompleteFrame⟩
    else if !trailerOk B then ⟨eng, len, .unknown, .trailerMissing⟩
    else
      match frameLength B with
      | none => ⟨eng, len, .unknown, .incompleteFrame⟩
      | some F =>
        if (B.length : Int) < F then ⟨eng, F, .unknown, .incompleteFrame⟩
        else
          let c := ckValid T B eng F
          if c.ok then ⟨c.eng, c.len, kindOf k, .none⟩
          else ⟨c.eng, c.len, .unknown, .checksumMismatch⟩
  else if B.length < 6 then ⟨eng, len, .unknown, .incompleteFrame⟩
  else ⟨eng, len, .unknown, .unrecognizedSignature⟩

/-! ### Notation of R8 -/

/-- Whether a step of a `DELIVER` ended the command (`stop` of R8). -/
inductive Flow where
  | stop
  | proceed
deriving DecidableEq, Repr

/-- `emit E` (R8). -/
def emit (E : Event) (s : State) : State := { s with events := s.events ++ [E] }

/-- `raise <Cause>` (R8, R110): it transfers no control. -/
def raiseCause (c : Cause) (s : State) : State := { s with cause := c }

/-- `RESULT <- r; PHASE <- Idle; stop`, the end of a delivery. -/
def finish (r : Result) (s : State) : State := { s with result := r, phase := .idle }

/-- What a unit operation run alone returns. -/
def returnValue (v : OpResult) (s : State) : State := { s with value := v }

/-! ### ByteBuffer (42_byte_buffer.md) -/

/-- `BUF <- BUF ++ D` would exceed a finite `BUF_CAP` (R91). -/
def exceedsCap (cap : Option Nat) (n d : Nat) : Bool :=
  match cap with
  | none => false
  | some c => decide (c < n + d)

/-- `APPEND(D)` (R90), refused as a whole when it would exceed `BUF_CAP` (R91). -/
def appendBatch (D : List Byte) (s : State) : State × Flow :=
  if exceedsCap s.bufCap s.buf.length D.length then
    ({ s with fault := setOverflow s.fault, result := .refused }, .stop)
  else ({ s with buf := s.buf ++ D }, .proceed)

/-- `TRUNC(k)`, for `k <= |BUF|` (R92). -/
def truncBuf (k : Nat) (s : State) : State := { s with buf := s.buf.drop k }

/-- `CLEAR()` (R93). -/
def clearBuf (s : State) : State := { s with buf := [] }

/-! ### Assembly State Machine (43_assembly_state_machine.md) -/

/-- Desync recovery, the block's nearest thing to a trap (R116): it saves nothing. `KIND` and `CAUSE` stay as
the third miss left them. -/
def desyncRecovery (s : State) : State :=
  { emit .rxClear { clearBuf { s with phase := .desyncSuspect } with miss := 0 } with result := .desync }

/-- `MISSUPD(k)` (R98). -/
def missUpdate (k : Kind) (s : State) : State × Flow :=
  match k with
  | .unknown =>
    let m := s.miss + 1
    if m = missLimit then
      ({ desyncRecovery { s with miss := m } with phase := .idle }, .stop)
    else
      ({ { s with miss := m, phase := .insufficient, result := .waiting } with phase := .idle }, .stop)
  | .batteryInfo => ({ s with miss := 0, phase := .complete }, .proceed)
  | .chart => ({ s with miss := 0, phase := .complete }, .proceed)
  | .chartDisplay => ({ s with miss := 0, phase := .complete }, .proceed)

/-- `DISPATCH(BatteryInfo)` (R100). -/
def dispatchBatteryInfo (s : State) : State × Flow :=
  (finish .decoded (clearBuf (emit (.frameBi s.buf) s)), .stop)

/-- `DISPATCH(ChartDisplay)` (R101). -/
def dispatchChartDisplay (s : State) : State × Flow :=
  (finish .decoded (clearBuf (emit .frameCd s)), .stop)

/-- `DISPATCH(Chart)` (R102), with `L <- LEN + 2`. The hand-over precedes the truncation and the truncation the
`RX_DROP` (R41). -/
def dispatchChart (s : State) : State × Flow :=
  let L := s.len + 2
  if (s.buf.length : Int) < L then
    (finish .partialDiscard (raiseCause .partialChartFrame (clearBuf s)), .stop)
  else
    let n := L.toNat
    let s' := emit (.rxDrop n) (truncBuf n (emit (.frameChart (s.buf.take n)) s))
    if s'.buf.isEmpty then (finish .decoded s', .stop) else (s', .proceed)

/-- `DISPATCH(k)` (R99). -/
def dispatch (k : FrameKind) (s : State) : State × Flow :=
  match k with
  | .batteryInfo => dispatchBatteryInfo s
  | .chart => dispatchChart s
  | .chartDisplay => dispatchChartDisplay s

/-- `PHASE <- Classifying; KIND <- Unknown; (k, c) <- CLASSIFY(BUF); KIND <- k; CAUSE <- c` (R96, R97). -/
def classifyBuffer (s : State) : State :=
  let s0 := { s with phase := .classifying, kind := .unknown }
  let r := classify s0.table s0.buf s0.eng s0.len
  { s0 with eng := r.eng, len := r.len, kind := r.kind, cause := r.cause }

/-- One pass of the loop of R96: classify, `MISSUPD`, which stops on Unknown alone, then `DISPATCH` of the kind
just determined. -/
def deliverPass (s : State) : State × Flow :=
  let s1 := classifyBuffer s
  match s1.kind with
  | .unknown => missUpdate .unknown s1
  | .batteryInfo => dispatch .batteryInfo (missUpdate .batteryInfo s1).1
  | .chart => dispatch .chart (missUpdate .chart s1).1
  | .chartDisplay => dispatch .chartDisplay (missUpdate .chartDisplay s1).1

/-- At most `fuel` passes of the loop of R96. Each pass that goes on has removed at least four bytes (R103), so
one more pass than there are bytes is never the limit (`deliverLoop_fuel` in Laws/Ops.lean). -/
def deliverLoop : Nat → State → State
  | 0, s => s
  | fuel + 1, s =>
    match deliverPass s with
    | (s', .stop) => s'
    | (s', .proceed) => deliverLoop fuel s'

/-- `DELIVER(D)` (R96). -/
def deliver (D : List Byte) (s : State) : State :=
  match appendBatch D s with
  | (s', .stop) => s'
  | (s', .proceed) => deliverLoop (s'.buf.length + 1) s'

/-! ### Reset (70_reset_and_hazards.md) -/

/-- The scratch registers after `RESET`, "left unspecified" (R130). -/
def freeEngine (n : Nat) : Engine :=
  { crc := Config.freeCrc n, prev := Config.freePrev n, acc := Config.freeAcc n,
    devck := Config.freeDevck n, idx := (Config.freeIdx n).val }

/-- `LEN` after `RESET`, unspecified within its range (R16, R130). -/
def freeLen (n : Nat) : Int := ((Config.freeLenField n).toNat : Int) - 2

/-- `RESET()` (R130). It emits no event. -/
def resetBlock (s : State) : State :=
  { clearBuf { s with table := builtTable } with
    miss := 0, kind := .unknown, cause := .none, result := .idle, fault := 0, phase := .idle,
    eng := freeEngine s.free, len := freeLen s.free, free := s.free + 1 }

/-! ### The command port -/

/-- A command is taken: its event list and its returned value start empty (R41, R104). -/
def beginCommand (rest : List Request) (s : State) : State :=
  { s with pending := rest, events := [], value := .none }

/-- A request that is no operation. A reserved code at the command port sets `FAULT.ILLCMD` and changes
nothing else (R57); any other is refused for the decoder's reason. -/
def rejectRequest (r : Request) (why : Reject) (s : State) : Host.Outcome State Fault Refusal :=
  match r, why with
  | .port _ _, .reservedCode _ => .next { s with fault := setIllCmd s.fault }
  | _, _ => .refused (.undecodable why)

end Sys2Proof.Machine
end

