-- ==== Sys2Proof/Machine/AssemblyMachine.lean ====
section
/-! DEFINITION. The meanings of the Assembly State Machine's unit operations (43_assembly_state_machine.md),
each run alone. -/

namespace Sys2Proof.Machine

/-- `MISSUPD` (R98). -/
def execMissupd (k : Kind) (s : State) : Host.Outcome State Fault Refusal := .next (missUpdate k s).1

/-- `DISPATCH` (R99 to R102). It reads `LEN` as the classification before it left it (R16).
`DISPATCH(Chart)` of a frame that is there in whole has `4 <= L <= 65535` (R102); outside it there is no `RX_DROP(L)`
to emit (R52). No delivery gets there. -/
def execDispatch (k : FrameKind) (s : State) : Host.Outcome State Fault Refusal :=
  if k = .chart ∧ s.len + 2 ≤ (s.buf.length : Int) ∧ dropCountOk (s.len + 2) = false then .fault .dropOutside
  else .next (dispatch k s).1

end Sys2Proof.Machine
end

