-- ==== Sys2Proof/Machine/ByteBuffer.lean ====
section
/-! DEFINITION. The meanings of the ByteBuffer's unit operations (42_byte_buffer.md), each run alone. -/

namespace Sys2Proof.Machine

/-- `APPEND` (R90, R91). -/
def execAppend (batch : List Byte) (s : State) : Host.Outcome State Fault Refusal :=
  .next (appendBatch batch s).1

/-- `TRUNC` (R92), for `0 <= k <= |BUF|`. -/
def execTrunc (count : Nat) (s : State) : Host.Outcome State Fault Refusal :=
  if s.buf.length < count then .fault .truncateOutside else .next (truncBuf count s)

/-- `CLEAR` (R93). -/
def execClear (s : State) : Host.Outcome State Fault Refusal := .next (clearBuf s)

end Sys2Proof.Machine
end

