-- ==== Sys2Proof/Machine/ChecksumEngine.lean ====
section
/-! DEFINITION. The meanings of the Checksum Engine's unit operations (40_checksum_engine.md), each run alone:
it writes the registers its rule names and returns its result. -/

namespace Sys2Proof.Machine

/-- `TBLGEN` (R70): the 256 entries of `TABLE`. -/
def execTblgen (s : State) : Host.Outcome State Fault Refusal := .next { s with table := builtTable }

/-- `CRCSTEP` (R72): a function of its operands and `TABLE`; it is `CRCPAIR` that stores the result (R11, R73). -/
def execCrcstep (crc : Word16) (byte : Byte) (s : State) : Host.Outcome State Fault Refusal :=
  .next (returnValue (.crc (crcStep s.table crc byte)) s)

/-- `CRCPAIR` (R73). Its precondition is `F <= |B|`; beyond it the loop would read bytes that do not exist. -/
def execCrcpair (bytes : List Byte) (F : Int) (s : State) : Host.Outcome State Fault Refusal :=
  if (bytes.length : Int) < F then .fault .readOutside
  else
    let e := crcPair s.table bytes F s.eng
    .next (returnValue (.pair e.crc e.devck) { s with eng := e })

/-- `CKVALID` (R77), for at least four bytes. -/
def execCkvalid (bytes : List Byte) (s : State) : Host.Outcome State Fault Refusal :=
  if bytes.length < 4 then .fault .readOutside
  else
    let c := ckValid s.table bytes s.eng s.len
    .next (returnValue (.bool c.ok) { s with eng := c.eng, len := c.len })

end Sys2Proof.Machine
end

