-- ==== Sys2Proof/Machine/Events.lean ====
section
/-! DEFINITION. The meanings of the five event rows: the block emits the event (30_encoding.md R52,
43_assembly_state_machine.md R104, 00_scope.md R8). What the sink does with it is outside the block (R40). -/

namespace Sys2Proof.Machine

/-- `FRAME_BI`. DESIGN CHOICE (assumption 20): named alone it emits whatever bytes it is given, those that R104
excludes in a delivery included. -/
def execEvFrameBi (bytes : List Byte) (s : State) : Host.Outcome State Fault Refusal :=
  .next (emit (.frameBi bytes) s)

/-- `FRAME_CHART`. DESIGN CHOICE (assumption 20): as for `FRAME_BI`. -/
def execEvFrameChart (bytes : List Byte) (s : State) : Host.Outcome State Fault Refusal :=
  .next (emit (.frameChart bytes) s)

/-- `FRAME_CD`. -/
def execEvFrameCd (s : State) : Host.Outcome State Fault Refusal := .next (emit .frameCd s)

/-- `RX_DROP`, for `4 <= N <= 65535` (R52). -/
def execEvRxDrop (count : Nat) (s : State) : Host.Outcome State Fault Refusal :=
  if dropCountOk count then .next (emit (.rxDrop count) s) else .fault .dropOutside

/-- `RX_CLEAR`. -/
def execEvRxClear (s : State) : Host.Outcome State Fault Refusal := .next (emit .rxClear s)

end Sys2Proof.Machine
end

