-- ==== Sys2Proof/Machine/FrameClassifier.lean ====
section
/-! DEFINITION. The meanings of the Frame Classifier's unit operations (41_frame_classifier.md), each run
alone. -/

namespace Sys2Proof.Machine

/-- `FLEN` (R80): the result, written to `LEN`. It needs four bytes. -/
def execFlen (bytes : List Byte) (s : State) : Host.Outcome State Fault Refusal :=
  match frameLength bytes with
  | none => .fault .readOutside
  | some F => .next (returnValue (.length F) { s with len := F })

/-- `MINLEN` (R81). The rule states no length for Unknown: a free one of R50's two results, 9 or
10 (assumption 6). -/
def execMinlen (k : Kind) (s : State) : Host.Outcome State Fault Refusal :=
  match k with
  | .unknown => .next (returnValue (.count (9 + (Config.freeMinLen s.free).val)) { s with free := s.free + 1 })
  | .batteryInfo => .next (returnValue (.count (minLength .batteryInfo)) s)
  | .chart => .next (returnValue (.count (minLength .chart)) s)
  | .chartDisplay => .next (returnValue (.count (minLength .chartDisplay)) s)

/-- `SIGBI` (R82). -/
def execSigbi (bytes : List Byte) (s : State) : Host.Outcome State Fault Refusal :=
  .next (returnValue (.bool (sigBi bytes)) s)

/-- `SIGCH` (R83). -/
def execSigch (bytes : List Byte) (s : State) : Host.Outcome State Fault Refusal :=
  .next (returnValue (.bool (sigCh bytes)) s)

/-- `SIGCD` (R84). -/
def execSigcd (bytes : List Byte) (s : State) : Host.Outcome State Fault Refusal :=
  .next (returnValue (.bool (sigCd bytes)) s)

/-- `TRAILER` (R85). -/
def execTrailer (bytes : List Byte) (s : State) : Host.Outcome State Fault Refusal :=
  .next (returnValue (.bool (trailerOk bytes)) s)

/-- `CLASSIFY` (R86): the verdict; `LEN` and the engine's registers as the tests leave them; `KIND`, `CAUSE`,
`BUF` and `MISS` unchanged. -/
def execClassify (bytes : List Byte) (s : State) : Host.Outcome State Fault Refusal :=
  let r := classify s.table bytes s.eng s.len
  .next (returnValue (.verdict r.kind r.cause) { s with eng := r.eng, len := r.len })

end Sys2Proof.Machine
end

