-- ==== Sys2Proof/Machine/PortCommands.lean ====
section
/-! DEFINITION. The meanings of the two port commands, `RESET` and `DELIVER`. -/

namespace Sys2Proof.Machine

/-- `RESET` (70_reset_and_hazards.md R130, R131). -/
def execReset (s : State) : Host.Outcome State Fault Refusal := .next (resetBlock s)

/-- `DELIVER` (43_assembly_state_machine.md R96 to R103). -/
def execDeliver (batch : List Byte) (s : State) : Host.Outcome State Fault Refusal := .next (deliver batch s)

end Sys2Proof.Machine
end

