-- ==== Sys2Proof/Machine/WireFrames.lean ====
section
/-! DEFINITION. The meanings of the three frame formats (30_encoding.md R53, R54). A run of bytes in such a
format reaches the block by the transport's push, as the batch of one delivery (R51, R96). -/

namespace Sys2Proof.Machine

/-- `FRAME.BI`: bytes beginning `00 24 24 FF FE` arrive. -/
def execFrameBi (tail : List Byte) (s : State) : Host.Outcome State Fault Refusal :=
  .next (deliver (sigBiBytes ++ tail) s)

/-- `FRAME.CH`: bytes beginning `24 24`, `L` little-endian, `FF 01` arrive. -/
def execFrameCh (L : Word16) (rest : List Byte) (s : State) : Host.Outcome State Fault Refusal :=
  .next (deliver (chartHeader L ++ rest) s)

/-- `FRAME.CD`: bytes beginning `24 24 0A 00 FF 02` arrive. -/
def execFrameCd (rest : List Byte) (s : State) : Host.Outcome State Fault Refusal :=
  .next (deliver (sigCdBytes ++ rest) s)

end Sys2Proof.Machine
end

