-- ==== Sys2Proof/Machine/Dispatch.lean ====
section
/-! DEFINITION. The meaning of each operation, one arm per row of spec/opcode_table.json. -/

namespace Sys2Proof.Machine

def exec (i : Instr) (s : State) : Host.Outcome State Fault Refusal :=
  match i with
  | .reset => Sys2Proof.Machine.execReset s
  | .deliver batch => Sys2Proof.Machine.execDeliver batch s
  | .tblgen => Sys2Proof.Machine.execTblgen s
  | .crcstep crc byte => Sys2Proof.Machine.execCrcstep crc byte s
  | .crcpair bytes F => Sys2Proof.Machine.execCrcpair bytes F s
  | .ckvalid bytes => Sys2Proof.Machine.execCkvalid bytes s
  | .flen bytes => Sys2Proof.Machine.execFlen bytes s
  | .minlen k => Sys2Proof.Machine.execMinlen k s
  | .sigbi bytes => Sys2Proof.Machine.execSigbi bytes s
  | .sigch bytes => Sys2Proof.Machine.execSigch bytes s
  | .sigcd bytes => Sys2Proof.Machine.execSigcd bytes s
  | .trailer bytes => Sys2Proof.Machine.execTrailer bytes s
  | .classify bytes => Sys2Proof.Machine.execClassify bytes s
  | .append batch => Sys2Proof.Machine.execAppend batch s
  | .trunc count => Sys2Proof.Machine.execTrunc count s
  | .clear => Sys2Proof.Machine.execClear s
  | .missupd k => Sys2Proof.Machine.execMissupd k s
  | .dispatch k => Sys2Proof.Machine.execDispatch k s
  | .evFrameBi bytes => Sys2Proof.Machine.execEvFrameBi bytes s
  | .evFrameChart bytes => Sys2Proof.Machine.execEvFrameChart bytes s
  | .evFrameCd => Sys2Proof.Machine.execEvFrameCd s
  | .evRxDrop count => Sys2Proof.Machine.execEvRxDrop count s
  | .evRxClear => Sys2Proof.Machine.execEvRxClear s
  | .frameBi tail => Sys2Proof.Machine.execFrameBi tail s
  | .frameCh L rest => Sys2Proof.Machine.execFrameCh L rest s
  | .frameCd rest => Sys2Proof.Machine.execFrameCd rest s

end Sys2Proof.Machine
end

