-- ==== Sys2Proof/Machine/Step.lean ====
section
/-! DEFINITION. One step: the block takes the next request presented to it and executes it to completion
(20_memory.md R39, 43_assembly_state_machine.md R95, 70_reset_and_hazards.md R140: a command is one step). -/

namespace Sys2Proof.Machine

/-- One step. With nothing presented the block "holds its state indefinitely" (60_exceptions.md R124). -/
def step (s : State) : Host.Outcome State Fault Refusal :=
  match s.pending with
  | [] => .next s
  | r :: rest =>
    match decode r with
    | .ok i => exec i (beginCommand rest s)
    | .error why => rejectRequest r why (beginCommand rest s)

/-- `s` with the operation of a table word presented next. The block has no program counter and fetches nothing
(R18); what the outside presents next is the request at the head of `pending` (assumption 7). -/
def State.withFetchWord (s : State) (nbits w : Nat) : State :=
  { s with pending := tableRequest nbits w :: s.pending }

end Sys2Proof.Machine
end

