-- ==== Sys2Proof/Safety.lean ====
section
/-! DEFINITION. The terms the statements use: the closed forms the spec gives beside its pseudocode, the
well-formed frames and event lists of the wire format, and the invariants of a run. The machine uses none of
them. -/

namespace Sys2Proof.Machine

/-! ### Checksum Engine -/

/-- `S(|M|)`: the register after the bytes of `M` have been absorbed from `0xFFFF` (R74). -/
def crcAfter (T : CrcTable) (M : List Byte) : Word16 := M.foldl (crcStep T) 0xFFFF

/-- `deviceChecksum` in closed form (R75). -/
def deviceChecksumOf (T : CrcTable) (B : List Byte) (F : Int) : Word16 :=
  if 3 ≤ F then crcAfter T (B.take (F - 2).toNat) ^^^ 0xFFFF else 0xFFFF

/-- `X25(M)` (R78). -/
def x25 (M : List Byte) : Word16 := crcAfter builtTable M ^^^ 0xFFFF

/-- The two bytes at `a` are present and are `v`, little-endian (R30, R56). -/
abbrev fieldAt (B : List Byte) (a : Nat) (v : Word16) : Prop :=
  (B.drop a).take 2 = [v.truncate 8, (v >>> 8).truncate 8]

/-! ### Frame Classifier -/

/-- `L`, the length field at bytes 2 and 3 of a sequence of at least four bytes (R55). -/
def declaredLength (B : List Byte) : Nat := (B.getD 2 0).toNat + 256 * (B.getD 3 0).toNat

/-- `F = L - 2`, signed (R80). -/
def coveredLength (B : List Byte) : Int := (declaredLength B : Int) - 2

/-- The checksum-valid test in closed form (R77). -/
abbrev ChecksumValid (T : CrcTable) (B : List Byte) : Prop :=
  4 ≤ B.length ∧ 2 ≤ coveredLength B ∧ coveredLength B ≤ (B.length : Int) ∧
    crcAfter T (B.take (coveredLength B).toNat) = 0xF0B8 ∧
    fieldAt B (coveredLength B - 2).toNat (deviceChecksumOf T B (coveredLength B))

/-- The sequence begins with the BatteryInfo signature (R82). -/
abbrev BeginsBatteryInfo (B : List Byte) : Prop := [0x00, 0x24, 0x24, 0xFF, 0xFE] <+: B

/-- The sequence begins with the Chart signature; bytes 2 and 3 may be anything (R83). -/
abbrev BeginsChart (B : List Byte) : Prop :=
  6 ≤ B.length ∧ B.take 2 = [0x24, 0x24] ∧ (B.drop 4).take 2 = [0xFF, 0x01]

/-- The sequence begins with the ChartDisplay signature (R84). -/
abbrev BeginsChartDisplay (B : List Byte) : Prop := [0x24, 0x24, 0x0A, 0x00, 0xFF, 0x02] <+: B

/-- The sequence ends in the trailer (R85). -/
abbrev EndsTrailer (B : List Byte) : Prop := [0x0D, 0x0A] <:+ B

/-- The requirements of a BatteryInfo verdict (R86). -/
abbrev IsBatteryInfo (B : List Byte) : Prop := BeginsBatteryInfo B ∧ 9 ≤ B.length ∧ EndsTrailer B

/-- The requirements of a Chart verdict (R86). -/
abbrev IsChart (T : CrcTable) (B : List Byte) : Prop :=
  BeginsChart B ∧ 10 ≤ B.length ∧ EndsTrailer B ∧ ChecksumValid T B

/-- The requirements of a ChartDisplay verdict (R86). -/
abbrev IsChartDisplay (T : CrcTable) (B : List Byte) : Prop :=
  BeginsChartDisplay B ∧ 10 ≤ B.length ∧ EndsTrailer B ∧ ChecksumValid T B

/-- `kind(B)` of R86 is Unknown. -/
abbrev IsUnknown (T : CrcTable) (B : List Byte) : Prop :=
  ¬ IsBatteryInfo B ∧ ¬ IsChart T B ∧ ¬ IsChartDisplay T B

/-- `kind(B)` as R86 defines it. -/
def KindIs (T : CrcTable) (B : List Byte) : Kind → Prop
  | .unknown => IsUnknown T B
  | .batteryInfo => IsBatteryInfo B
  | .chart => IsChart T B
  | .chartDisplay => IsChartDisplay T B

/-- A signature with a checksum requirement holds (R112). -/
abbrev BeginsChecked (B : List Byte) : Prop := BeginsChart B ∨ BeginsChartDisplay B

/-- The cause of a verdict, row by row of R112; `none` for a verdict of a kind. -/
def CauseIs (T : CrcTable) (B : List Byte) : Cause → Prop
  | .none => ¬ IsUnknown T B
  | .incompleteFrame =>
    (BeginsBatteryInfo B ∧ B.length < 9) ∨ (BeginsChecked B ∧ B.length < 10) ∨
    (BeginsChecked B ∧ 10 ≤ B.length ∧ EndsTrailer B ∧ (B.length : Int) < coveredLength B) ∨
    (¬ BeginsBatteryInfo B ∧ ¬ BeginsChecked B ∧ B.length < 6)
  | .trailerMissing =>
    (BeginsBatteryInfo B ∧ 9 ≤ B.length ∧ ¬ EndsTrailer B) ∨
    (BeginsChecked B ∧ 10 ≤ B.length ∧ ¬ EndsTrailer B)
  | .checksumMismatch =>
    BeginsChecked B ∧ 10 ≤ B.length ∧ EndsTrailer B ∧ coveredLength B ≤ (B.length : Int) ∧
    ¬ ChecksumValid T B
  | .unrecognizedSignature => ¬ BeginsBatteryInfo B ∧ ¬ BeginsChecked B ∧ 6 ≤ B.length
  | .malformedPayload => False
  | .partialChartFrame => False

/-- `W` of R54: six bytes as one 48-bit value, the first in bits 47:40. -/
def firstSix (b0 b1 b2 b3 b4 b5 : Byte) : BitVec 48 := b0 ++ b1 ++ b2 ++ b3 ++ b4 ++ b5

/-! ### Frames and event lists -/

/-- The Chart frame that carries `payload`, built by the recipe of R78: the bytes before the checksum, their
`X25` with the low byte first, the trailer. -/
def chartFrameHead (payload : List Byte) : List Byte :=
  chartHeader (BitVec.ofNat 16 (10 + payload.length)) ++ payload

/-- The bytes of that frame after its six header bytes. -/
def chartFrameRest (payload : List Byte) : List Byte :=
  payload ++ le16Bytes (x25 (chartFrameHead payload)) ++ [0x0D, 0x0A]

/-- The whole frame. -/
def chartFrame (payload : List Byte) : List Byte :=
  chartFrameHead payload ++ le16Bytes (x25 (chartFrameHead payload)) ++ [0x0D, 0x0A]

/-- What `FRAME_CHART(bytes)` promises of its bytes (R104). -/
def HandedChart (f : List Byte) : Prop :=
  10 ≤ f.length ∧ BeginsChart f ∧ declaredLength f = f.length ∧ ChecksumValid builtTable f

/-- The events of a delivery that consumed these Chart frames and then emitted `tail` (R102, R104). -/
def eventsOf (frames : List (List Byte)) (tail : List Event) : List Event :=
  frames.flatMap (fun f => [.frameChart f, .rxDrop f.length]) ++ tail

/-- The events that hand over a buffer of a determined kind, all of it (R100, R101, R102). -/
def handOver : Kind → List Byte → List Event
  | .unknown, _ => []
  | .batteryInfo, B => [.frameBi B]
  | .chart, B => [.frameChart B, .rxDrop B.length]
  | .chartDisplay, _ => [.frameCd]

/-- The bytes an operation brings to the buffer: the batch of a delivery or an append, and the wire bytes of a
frame format (assumption 9). -/
def arriving : Instr → List Byte
  | .deliver D => D
  | .append D => D
  | .frameBi tail => sigBiBytes ++ tail
  | .frameCh L rest => chartHeader L ++ rest
  | .frameCd rest => sigCdBytes ++ rest
  | .reset | .tblgen | .crcstep _ _ | .crcpair _ _ | .ckvalid _ | .flen _ | .minlen _ | .sigbi _ | .sigch _
  | .sigcd _ | .trailer _ | .classify _ | .trunc _ | .clear | .missupd _ | .dispatch _ | .evFrameBi _
  | .evFrameChart _ | .evFrameCd | .evRxDrop _ | .evRxClear => []

/-- The batch fits in the buffer's capacity (R91). -/
abbrev Fits (s : State) (D : List Byte) : Prop :=
  match s.bufCap with
  | none => True
  | some c => s.buf.length + D.length ≤ c

/-! ### Invariants -/

/-- The registers are in their ranges (R15, R16, R17, R20, R24) and `TABLE` is as built (R23, R27). -/
structure State.RegistersOk (s : State) : Prop where
  table : s.table = builtTable
  miss : s.miss.toNat ≤ 2
  lenLow : -2 ≤ s.len
  lenHigh : s.len ≤ 65533
  idx : s.eng.idx ≤ 65533
  cause : s.cause ≠ .malformedPayload
  cap : ∀ c, s.bufCap = some c → s.buf.length ≤ c

/-- A request the outside can present: the command port or the push interface, not a unit operation by name
(R50, R57). -/
def fromOutside : Request → Bool
  | .port _ _ => true
  | .push _ => true
  | .trace _ _ => false

/-- What holds between commands when the outside alone presents requests (R27, R105). -/
structure State.BetweenCommands (s : State) : Prop where
  outside : ∀ r ∈ s.pending, fromOutside r = true
  phase : s.phase = .idle
  table : s.table = builtTable
  miss : s.miss.toNat ≤ 2
  emptied : s.result = .decoded ∨ s.result = .desync ∨ s.result = .partialDiscard → s.buf = [] ∧ s.miss = 0
  waiting : s.result = .waiting → 1 ≤ s.miss.toNat
  /-- The status registers agree with the ending (R105, R111, R116). -/
  status :
    (s.result = .decoded → s.kind ≠ .unknown ∧ s.cause = .none) ∧
    (s.result = .waiting ∨ s.result = .desync →
      s.kind = .unknown ∧ s.cause ≠ .none ∧ s.cause ≠ .partialChartFrame) ∧
    (s.result = .partialDiscard → s.kind = .chart ∧ s.cause = .partialChartFrame)

end Sys2Proof.Machine
end

