-- ==== Sys2Proof/Certificates/Slice0/Obligations.lean ====
section
/-! DEFINITION. The statements for the provers. Each says which rule of spec/ it formalises, or that it is an
inference or a choice of this model and where that is logged. -/

open Sys2Proof Sys2Proof.Machine

/-! ### Encoding and stepping -/

/-- Words of spec/opcode_table.json, written out from the codes of R50 and R52 and the signatures of R53. The
operand bytes of `CRCSTEP` and `RX_DROP` are laid out as assumption 8 says. -/
def Obligations.TableWordsDecodeToTheirOperations : Prop :=
  decodeTableWord 8 0x00 = some .reset ∧
  decodeTableWord 8 0x01 = some (.deliver []) ∧
  decodeTableWord 8 0x10 = some .tblgen ∧
  decodeTableWord 32 0x56123411 = some (.crcstep 0x1234 0x56) ∧
  decodeTableWord 8 0x26 = some (.classify []) ∧
  decodeTableWord 8 0x32 = some .clear ∧
  decodeTableWord 8 0x40 = some (.missupd .unknown) ∧
  decodeTableWord 24 0x000A90 = some (.evRxDrop 14) ∧
  decodeTableWord 8 0x91 = some .evRxClear ∧
  decodeTableWord 48 0x002424FFFE41 = some (.frameBi [0x41]) ∧
  decodeTableWord 48 0x24240E00FF01 = some (.frameCh 14 []) ∧
  decodeTableWord 48 0x24240A00FF02 = some (.frameCd [])

/-- The request presented next is taken off and run to completion, with an event list and a returned value of
its own; with nothing presented the block holds its state (R39, R41, R124). -/
def Obligations.StepRunsTheDecodedOperation : Prop :=
  (∀ (s : State) (r : Request) (rest : List Request) (i : Instr),
    s.pending = r :: rest → decode r = .ok i →
    step s = exec i { s with pending := rest, events := [], value := .none }) ∧
  (∀ s : State, s.pending = [] → step s = .next s)

/-- Decoding an encoded well-formed operation gives it back, for every operation and every operand. -/
def Obligations.EncodeThenDecodeIsIdentity : Prop :=
  ∀ i : Instr, i.wf = true → decode (encode i) = .ok i

/-- What the decoder reads is well-formed, and encodes to the very code and operand bytes, or wire bytes, it was
read from: no bit of a request is dropped. -/
def Obligations.DecodeThenEncodeIsIdentity : Prop :=
  (∀ (code : Byte) (operand : List Byte) (i : Instr), decodeOp code operand = .ok i →
    i.wf = true ∧ (encode i = .port code operand ∨ encode i = .trace code operand)) ∧
  (∀ (bytes : List Byte) (i : Instr), decodeFrame bytes = .ok i → i.wf = true ∧ encode i = .push bytes)

/-- R57: only `0x00` and `0x01` are commands at the port; every other code sets `FAULT.ILLCMD` and changes
nothing else of the block. -/
def Obligations.ReservedPortCodeOnlySetsIllCmd : Prop :=
  decode (.port 0x00 []) = .ok .reset ∧
  (∀ D : List Byte, decode (.port 0x01 D) = .ok (.deliver D)) ∧
  (∀ (s : State) (code : Byte) (operand : List Byte) (rest : List Request),
    s.pending = .port code operand :: rest → code ≠ 0x00 → code ≠ 0x01 →
    step s = .next { s with pending := rest, events := [], value := .none, fault := s.fault ||| 0b10 })

/-- R54: the three signature tests are the match and mask tests on the first six bytes, need the bytes R54 says
they need, and exclude one another. -/
def Obligations.SignaturesAreMatchAndMask : Prop :=
  (∀ (b0 b1 b2 b3 b4 b5 : Byte) (rest : List Byte),
    (sigBi (b0 :: b1 :: b2 :: b3 :: b4 :: b5 :: rest) = true ↔
      firstSix b0 b1 b2 b3 b4 b5 &&& 0xFFFFFFFFFF00 = 0x002424FFFE00) ∧
    (sigCh (b0 :: b1 :: b2 :: b3 :: b4 :: b5 :: rest) = true ↔
      firstSix b0 b1 b2 b3 b4 b5 &&& 0xFFFF0000FFFF = 0x24240000FF01) ∧
    (sigCd (b0 :: b1 :: b2 :: b3 :: b4 :: b5 :: rest) = true ↔
      firstSix b0 b1 b2 b3 b4 b5 &&& 0xFFFFFFFFFFFF = 0x24240A00FF02)) ∧
  (∀ b0 b1 b2 b3 b4 b5 : Byte, sigBi [b0, b1, b2, b3, b4] = true ↔
    firstSix b0 b1 b2 b3 b4 b5 &&& 0xFFFFFFFFFF00 = 0x002424FFFE00) ∧
  (∀ B : List Byte, B.length < 5 → sigBi B = false) ∧
  (∀ B : List Byte, B.length < 6 → sigCh B = false ∧ sigCd B = false) ∧
  (∀ B : List Byte, ¬ (sigBi B = true ∧ sigCh B = true) ∧ ¬ (sigBi B = true ∧ sigCd B = true) ∧
    ¬ (sigCh B = true ∧ sigCd B = true))

/-! ### Checksum Engine -/

/-- R70: `TBLGEN` leaves in `TABLE[b]` eight rounds of the recurrence from the byte value, and changes nothing
else. -/
def Obligations.TblgenBuildsTableByRecurrence : Prop :=
  ∀ s : State, ∃ t : State, exec .tblgen s = .next t ∧ t = { s with table := t.table } ∧
    ∀ b : Byte, t.table.read b =
      (fun v : Word16 => if v.getLsbD 0 then (v >>> 1) ^^^ 0x8408 else v >>> 1)^[8] (b.zeroExtend 16)

/-- The properties the spec lists under R71 and derives from the contents: the table is linear over XOR and its
high bytes are pairwise distinct. -/
def Obligations.TableIsLinearWithDistinctHighBytes : Prop :=
  ∀ (s t : State), exec .tblgen s = .next t → ∀ a b : Byte,
    t.table.read (a ^^^ b) = t.table.read a ^^^ t.table.read b ∧
    (t.table.read a >>> 8 = t.table.read b >>> 8 → a = b)

/-- R72: the CRC step; only the returned value changes. -/
def Obligations.CrcstepResult : Prop :=
  ∀ (s : State) (crc : Word16) (byte : Byte),
    exec (.crcstep crc byte) s =
      .next { s with value := .crc ((crc >>> 8) ^^^ s.table.read (crc.truncate 8 ^^^ byte)) }

/-- The bit-serial form the spec derives under R72: the byte is put into the low half and eight rounds are
run. -/
def Obligations.CrcstepIsBitSerial : Prop :=
  ∀ (s : State) (crc : Word16) (byte : Byte), s.table = builtTable →
    exec (.crcstep crc byte) s = .next { s with
      value := .crc ((fun v : Word16 => if v.getLsbD 0 then (v >>> 1) ^^^ 0x8408 else v >>> 1)^[8]
        (crc ^^^ byte.zeroExtend 16)) }

/-- `CRCPAIR` in the closed form the spec derives from R73 (R74, R75): the pair returned, and `CRC`, `DEVCK`,
`ACC`, `PREV` afterwards; nothing else but `IDX` changes. -/
def Obligations.CrcpairResult : Prop :=
  ∀ (s : State) (B : List Byte) (F : Int), F ≤ (B.length : Int) →
    ∃ t : State, exec (.crcpair B F) s = .next t ∧
      t = { s with
              eng := t.eng
              value := .pair (crcAfter s.table (B.take F.toNat)) (deviceChecksumOf s.table B F) } ∧
      t.eng.crc = crcAfter s.table (B.take F.toNat) ∧
      t.eng.devck = deviceChecksumOf s.table B F ∧
      t.eng.acc = (if 3 ≤ F then
        (crcAfter s.table (B.take (F - 3).toNat) ^^^ (B.getD (F - 3).toNat 0).zeroExtend 16) ++
          crcAfter s.table (B.take (F - 2).toNat) else 0) ∧
      t.eng.prev = (if 1 ≤ F then crcAfter s.table (B.take (F - 1).toNat) else s.eng.prev)

/-- R78, derived there: absorbing two bytes leaves `0xF0B8` exactly when they are the complement of the register,
low byte first; so the two conditions of the checksum test are equivalent, and `deviceChecksum` is the X.25
checksum of the bytes before the checksum bytes. -/
def Obligations.ResidueExactlyWhenChecksumMatches : Prop :=
  (∀ (c : Word16) (lo hi : Byte),
    crcStep builtTable (crcStep builtTable c lo) hi = 0xF0B8 ↔ hi ++ lo = c ^^^ 0xFFFF) ∧
  (∀ (s : State) (B : List Byte) (F : Int), s.table = builtTable → 3 ≤ F → F ≤ (B.length : Int) →
    ∃ t : State, exec (.crcpair B F) s = .next t ∧ t.eng.devck = x25 (B.take (F - 2).toNat) ∧
      (t.eng.crc = 0xF0B8 ↔ fieldAt B (F - 2).toNat t.eng.devck))

/-- R79 (a), which the spec derives to be certain: a checksum-valid sequence with one covered byte changed,
outside the length field, is not checksum-valid. -/
def Obligations.ChecksumTestCatchesAnyOneByte : Prop :=
  ∀ (s : State) (B : List Byte) (a : Nat) (v : Byte), s.table = builtTable →
    ChecksumValid builtTable B → (a : Int) < coveredLength B → a ≠ 2 → a ≠ 3 → B[a]? ≠ some v →
    ∃ t : State, exec (.ckvalid (B.set a v)) s = .next t ∧ t.value = .bool false

/-- R77: the checksum-valid test needs both conditions, is false outside the bounds without running `CRCPAIR`, and
writes only `LEN`, the engine's registers and the returned value. -/
def Obligations.CkvalidResult : Prop :=
  ∀ (s : State) (B : List Byte), 4 ≤ B.length →
    ∃ (t : State) (ok : Bool), exec (.ckvalid B) s = .next t ∧
      (ok = true ↔ ChecksumValid s.table B) ∧
      t = { s with len := coveredLength B, eng := t.eng, value := .bool ok } ∧
      (coveredLength B < 2 ∨ (B.length : Int) < coveredLength B → ok = false ∧ t.eng = s.eng)

/-! ### Frame Classifier -/

/-- R80: `FLEN(B) = (B[2] | B[3] << 8) - 2` without wrap-around, written to `LEN`; from -2 to 65533. -/
def Obligations.FlenResult : Prop :=
  ∀ (s : State) (b0 b1 b2 b3 : Byte) (rest : List Byte),
    exec (.flen (b0 :: b1 :: b2 :: b3 :: rest)) s =
      .next { s with
        len := (b2.toNat : Int) + 256 * (b3.toNat : Int) - 2
        value := .length ((b2.toNat : Int) + 256 * (b3.toNat : Int) - 2) } ∧
    -2 ≤ (b2.toNat : Int) + 256 * (b3.toNat : Int) - 2 ∧
    (b2.toNat : Int) + 256 * (b3.toNat : Int) - 2 ≤ 65533

/-- R81: the minimum lengths of the three frame kinds. -/
def Obligations.MinlenResult : Prop :=
  ∀ s : State,
    exec (.minlen .batteryInfo) s = .next { s with value := .count 9 } ∧
    exec (.minlen .chart) s = .next { s with value := .count 10 } ∧
    exec (.minlen .chartDisplay) s = .next { s with value := .count 10 }

/-- The model's choice (assumption 6): `MINLEN(Unknown)`, which R81 does not state, returns 9 or 10 (R50), which of
the two being a free value; the block goes on. -/
def Obligations.MinlenOfUnknownRunsWithAFreeValue : Prop :=
  ∀ s : State, ∃ n : Nat, (n = 9 ∨ n = 10) ∧
    exec (.minlen .unknown) s = .next { s with value := .count n, free := s.free + 1 }

/-- R82, R83, R84, R85: what each test answers, and that it changes only the returned value. -/
def Obligations.SignatureAndTrailerTests : Prop :=
  ∀ (s : State) (B : List Byte), ∃ bi ch cd tr : Bool,
    exec (.sigbi B) s = .next { s with value := .bool bi } ∧ (bi = true ↔ BeginsBatteryInfo B) ∧
    exec (.sigch B) s = .next { s with value := .bool ch } ∧ (ch = true ↔ BeginsChart B) ∧
    exec (.sigcd B) s = .next { s with value := .bool cd } ∧ (cd = true ↔ BeginsChartDisplay B) ∧
    exec (.trailer B) s = .next { s with value := .bool tr } ∧ (tr = true ↔ EndsTrailer B)

/-- R86 with R112: the kind, the cause, `LEN` for the kinds that have one; `CLASSIFY` writes only `LEN`, the
engine's registers and the returned verdict. -/
def Obligations.ClassifyVerdict : Prop :=
  ∀ (s : State) (B : List Byte), ∃ (t : State) (k : Kind) (c : Cause),
    exec (.classify B) s = .next t ∧ t.value = .verdict k c ∧
    KindIs s.table B k ∧ CauseIs s.table B c ∧ (c = .none ↔ k ≠ .unknown) ∧
    (k = .chart ∨ k = .chartDisplay → t.len = coveredLength B) ∧
    t = { s with eng := t.eng, len := t.len, value := t.value }

/-- R53, derived there: among ten-byte sequences exactly one is a valid ChartDisplay frame. -/
def Obligations.OneChartDisplayFrame : Prop :=
  ∀ (s : State) (B : List Byte), s.table = builtTable → B.length = 10 →
    ((∃ t : State, exec (.classify B) s = .next t ∧ t.value = .verdict .chartDisplay .none) ↔
      B = [0x24, 0x24, 0x0A, 0x00, 0xFF, 0x02, 0xBE, 0x2F, 0x0D, 0x0A])

/-- R87, derived there: a Chart verdict means a declared length of at least 10, and at most two bytes of it
missing from the buffer. -/
def Obligations.ChartVerdictHasLengthTenOrMore : Prop :=
  ∀ (s t : State) (B : List Byte), s.table = builtTable →
    exec (.classify B) s = .next t → t.value = .verdict .chart .none →
    10 ≤ declaredLength B ∧ declaredLength B ≤ B.length + 2

/-- R106 (a) and R87: an empty sequence is never a false match. -/
def Obligations.EmptyBufferIsNeverAMatch : Prop :=
  ∀ s : State, exec (.classify []) s = .next { s with value := .verdict .unknown .incompleteFrame }

/-! ### ByteBuffer -/

/-- R90: the batch goes to the back in its order; the bytes present keep their indices; nothing else changes. -/
def Obligations.AppendResult : Prop :=
  ∀ (s : State) (D : List Byte), Fits s D →
    ∃ t : State, exec (.append D) s = .next t ∧ t = { s with buf := t.buf } ∧
      t.buf.length = s.buf.length + D.length ∧
      (∀ a, a < s.buf.length → memRead1 t.buf a = memRead1 s.buf a) ∧
      (∀ a, memRead1 t.buf (s.buf.length + a) = memRead1 D a)

/-- R91: with a finite capacity a delivery that would exceed it is refused whole; with none an append always
succeeds. -/
def Obligations.DeliverBeyondCapacityIsRefusedWhole : Prop :=
  (∀ (s : State) (D : List Byte) (cap : Nat), s.bufCap = some cap → cap < s.buf.length + D.length →
    exec (.deliver D) s = .next { s with fault := s.fault ||| 0b01, result := .refused }) ∧
  (∀ (s : State) (D : List Byte), s.bufCap = none →
    exec (.append D) s = .next { s with buf := s.buf ++ D })

/-- The model's choice (assumption 5): a unit `APPEND` run alone beyond the capacity ends as R91 ends a
delivery. -/
def Obligations.AppendBeyondCapacityIsRefusedWhole : Prop :=
  ∀ (s : State) (D : List Byte) (cap : Nat), s.bufCap = some cap → cap < s.buf.length + D.length →
    exec (.append D) s = .next { s with fault := s.fault ||| 0b01, result := .refused }

/-- R92: the byte that was at index `k + a` is at index `a`; nothing else changes. -/
def Obligations.TruncResult : Prop :=
  ∀ (s : State) (k : Nat), k ≤ s.buf.length →
    ∃ t : State, exec (.trunc k) s = .next t ∧ t = { s with buf := t.buf } ∧
      t.buf.length + k = s.buf.length ∧ ∀ a, memRead1 t.buf a = memRead1 s.buf (k + a)

/-- R93: no byte is left; nothing else changes. -/
def Obligations.ClearResult : Prop :=
  ∀ s : State, ∃ t : State, exec .clear s = .next t ∧ t = { s with buf := t.buf } ∧
    ∀ a, memRead1 t.buf a = none

/-- The model's stops (NOTES.md): operand bytes that do not exist are never read (R33, R73, R77, R80) and no more
bytes are removed than there are (R92). -/
def Obligations.AccessOutsideTheBytesStops : Prop :=
  (∀ (s : State) (B : List Byte), B.length < 4 →
    exec (.flen B) s = .fault .readOutside ∧ exec (.ckvalid B) s = .fault .readOutside) ∧
  (∀ (s : State) (B : List Byte) (F : Int), (B.length : Int) < F →
    exec (.crcpair B F) s = .fault .readOutside) ∧
  (∀ (s : State) (k : Nat), s.buf.length < k → exec (.trunc k) s = .fault .truncateOutside)

/-! ### Assembly State Machine: unit operations -/

/-- R98: a determined kind resets the counter and goes on; a first or second miss waits; the third recovers. -/
def Obligations.MissupdResult : Prop :=
  (∀ (s : State) (k : Kind), k ≠ .unknown →
    exec (.missupd k) s = .next { s with miss := 0, phase := .complete }) ∧
  (∀ s : State, s.miss.toNat < 2 → ∃ t : State, exec (.missupd .unknown) s = .next t ∧
    t.miss.toNat = s.miss.toNat + 1 ∧ t = { s with miss := t.miss, result := .waiting, phase := .idle }) ∧
  (∀ s : State, s.miss.toNat = 2 → exec (.missupd .unknown) s = .next { s with
    buf := [], miss := 0, result := .desync, phase := .idle, events := s.events ++ [.rxClear] })

/-- R100: the whole buffer is handed over and cleared; no transport command. -/
def Obligations.DispatchBatteryInfoResult : Prop :=
  ∀ s : State, exec (.dispatch .batteryInfo) s = .next { s with
    buf := [], result := .decoded, phase := .idle, events := s.events ++ [.frameBi s.buf] }

/-- R101: the notice carries no bytes; the whole buffer is cleared. -/
def Obligations.DispatchChartDisplayResult : Prop :=
  ∀ s : State, exec (.dispatch .chartDisplay) s = .next { s with
    buf := [], result := .decoded, phase := .idle, events := s.events ++ [.frameCd] }

/-- The three branches of R102 for `DISPATCH` run alone, `LEN` being what a classification left (`L` from 4 to
65535): partial frame, last frame, frame with bytes behind it. Where R102 goes on with the loop, the unit
operation ends. -/
def Obligations.DispatchChartResult : Prop :=
  ∀ (s : State) (L : Nat), s.len = (L : Int) - 2 → 4 ≤ L → L ≤ 65535 →
    (s.buf.length < L → exec (.dispatch .chart) s = .next { s with
      buf := [], cause := .partialChartFrame, result := .partialDiscard, phase := .idle }) ∧
    (s.buf.length = L → exec (.dispatch .chart) s = .next { s with
      buf := [], result := .decoded, phase := .idle
      events := s.events ++ [.frameChart s.buf, .rxDrop L] }) ∧
    (L < s.buf.length → exec (.dispatch .chart) s = .next { s with
      buf := s.buf.drop L, events := s.events ++ [.frameChart (s.buf.take L), .rxDrop L] })

/-- R8, R104: an event row appends its event to the ordered list and changes nothing else; `RX_DROP` for
the counts of R52. That `FRAME_BI` and `FRAME_CHART` named alone take any bytes is the model's choice
(assumption 20). -/
def Obligations.EventRowsAppendTheirEvent : Prop :=
  ∀ (s : State) (bytes : List Byte) (n : Nat),
    exec (.evFrameBi bytes) s = .next { s with events := s.events ++ [.frameBi bytes] } ∧
    exec (.evFrameChart bytes) s = .next { s with events := s.events ++ [.frameChart bytes] } ∧
    exec .evFrameCd s = .next { s with events := s.events ++ [.frameCd] } ∧
    (4 ≤ n → n ≤ 65535 → exec (.evRxDrop n) s = .next { s with events := s.events ++ [.rxDrop n] }) ∧
    exec .evRxClear s = .next { s with events := s.events ++ [.rxClear] }

/-! ### Deliveries -/

/-- R98 and R116 for a whole delivery whose bytes are of no kind: kept and counted, or on the third consecutive
miss everything discarded with `RX_CLEAR`, `KIND` Unknown and `CAUSE` that of the miss. -/
def Obligations.DeliverMissWaitsOrRecovers : Prop :=
  ∀ (s : State) (D : List Byte), s.miss.toNat ≤ 2 → Fits s D → IsUnknown s.table (s.buf ++ D) →
    ∃ t : State, exec (.deliver D) s = .next t ∧ CauseIs s.table (s.buf ++ D) t.cause ∧
      (s.miss.toNat = 2 → t = { s with
        buf := [], miss := 0, kind := .unknown, cause := t.cause, result := .desync, phase := .idle
        eng := t.eng, len := t.len, events := s.events ++ [.rxClear] }) ∧
      (s.miss.toNat < 2 → t.miss.toNat = s.miss.toNat + 1 ∧ t = { s with
        buf := s.buf ++ D, miss := t.miss, kind := .unknown, cause := t.cause, result := .waiting
        phase := .idle, eng := t.eng, len := t.len })

/-- A delivery that completes a BatteryInfo frame (R96, R98, R100). -/
def Obligations.DeliverCompletesBatteryInfo : Prop :=
  ∀ (s : State) (D : List Byte), Fits s D → IsBatteryInfo (s.buf ++ D) →
    exec (.deliver D) s = .next { s with
      buf := [], miss := 0, kind := .batteryInfo, cause := .none, result := .decoded, phase := .idle
      events := s.events ++ [.frameBi (s.buf ++ D)] }

/-- A delivery that completes a ChartDisplay frame; whatever stands behind it is cleared with it (R96, R98,
R101). -/
def Obligations.DeliverCompletesChartDisplay : Prop :=
  ∀ (s : State) (D : List Byte), Fits s D → IsChartDisplay s.table (s.buf ++ D) →
    ∃ t : State, exec (.deliver D) s = .next t ∧ t = { s with
      buf := [], miss := 0, kind := .chartDisplay, cause := .none, result := .decoded, phase := .idle
      eng := t.eng, len := t.len, events := s.events ++ [.frameCd] }

/-- R102 in a delivery: a Chart frame cut short is discarded, the last one of the buffer ends the delivery, and
one with bytes behind it is consumed and the remainder classified as a delivery of nothing would classify
it. -/
def Obligations.DeliverConsumesChart : Prop :=
  ∀ (s : State) (D : List Byte), Fits s D → IsChart s.table (s.buf ++ D) →
    ((s.buf ++ D).length < declaredLength (s.buf ++ D) →
      ∃ t : State, exec (.deliver D) s = .next t ∧ t = { s with
        buf := [], miss := 0, kind := .chart, cause := .partialChartFrame, result := .partialDiscard
        phase := .idle, eng := t.eng, len := t.len }) ∧
    ((s.buf ++ D).length = declaredLength (s.buf ++ D) →
      ∃ t : State, exec (.deliver D) s = .next t ∧ t = { s with
        buf := [], miss := 0, kind := .chart, cause := .none, result := .decoded, phase := .idle
        eng := t.eng, len := t.len
        events := s.events ++ [.frameChart (s.buf ++ D), .rxDrop (declaredLength (s.buf ++ D))] }) ∧
    (declaredLength (s.buf ++ D) < (s.buf ++ D).length →
      ∃ t : State, exec (.deliver D) s = exec (.deliver []) t ∧ t = { s with
        buf := (s.buf ++ D).drop (declaredLength (s.buf ++ D)), miss := 0, kind := .chart, cause := .none
        phase := .complete, eng := t.eng, len := t.len
        events := s.events ++ [.frameChart ((s.buf ++ D).take (declaredLength (s.buf ++ D))),
          .rxDrop (declaredLength (s.buf ++ D))] })

/-- R105: every delivery completes, and `RESULT` says what `BUF` and `MISS` hold. A delivery that fits consumes
Chart frames of exactly their declared length, `frames`, and classifies the bytes `last` behind them; `KIND` and
`CAUSE` are those of that classification, and `BUF` keeps all of `last` where the delivery waits. One that does not
fit changes nothing but `FAULT.OVERFLOW` and `RESULT` (R91). -/
def Obligations.DeliverEndings : Prop :=
  ∀ (s : State) (D : List Byte), s.miss.toNat ≤ 2 →
    (¬ Fits s D → exec (.deliver D) s = .next { s with fault := s.fault ||| 0b01, result := .refused }) ∧
    (Fits s D → ∃ (t : State) (frames : List (List Byte)) (last : List Byte), exec (.deliver D) s = .next t ∧
      s.buf ++ D = frames.flatten ++ last ∧ (∀ f ∈ frames, f.length = declaredLength f) ∧
      KindIs s.table last t.kind ∧
      match t.result with
      | .idle => False
      | .decoded => t.kind ≠ .unknown ∧ t.cause = .none ∧ t.buf = [] ∧ t.miss = 0 ∧
          t.events = s.events ++ eventsOf frames (handOver t.kind last)
      | .waiting => t.kind = .unknown ∧ CauseIs s.table last t.cause ∧ t.buf = last ∧
          t.miss.toNat = (if frames = [] then s.miss.toNat + 1 else 1) ∧
          (t.miss.toNat = 1 ∨ t.miss.toNat = 2) ∧ t.events = s.events ++ eventsOf frames []
      | .desync => t.kind = .unknown ∧ CauseIs s.table last t.cause ∧ frames = [] ∧ s.miss.toNat = 2 ∧
          t.buf = [] ∧ t.miss = 0 ∧ t.events = s.events ++ [.rxClear]
      | .partialDiscard => t.kind = .chart ∧ t.cause = .partialChartFrame ∧
          last.length < declaredLength last ∧ t.buf = [] ∧ t.miss = 0 ∧
          t.events = s.events ++ eventsOf frames []
      | .refused => False)

/-- The possible event lists of one delivery, as the spec derives them in R104, with what each event promises of
its bytes. -/
def Obligations.DeliverEventList : Prop :=
  ∀ (s : State) (D : List Byte), s.table = builtTable →
    ∃ (t : State) (evs : List Event), exec (.deliver D) s = .next t ∧ t.events = s.events ++ evs ∧
      (evs = [.rxClear] ∨
       ∃ (frames : List (List Byte)) (tail : List Event), evs = eventsOf frames tail ∧
         (∀ f ∈ frames, HandedChart f) ∧
         (tail = [] ∨ (∃ b, tail = [.frameBi b] ∧ IsBatteryInfo b) ∨ tail = [.frameCd]))

/-- Every byte is accounted for: the buffer and the batch are the consumed Chart frames in order and then a rest,
which is kept, handed over, cleared with a ChartDisplay frame, or discarded, as `RESULT` says (R24, R36, R96 to
R105). -/
def Obligations.DeliverAccountsForEveryByte : Prop :=
  ∀ (s : State) (D : List Byte), Fits s D →
    ∃ (t : State) (frames : List (List Byte)) (tail : List Event) (rest : List Byte),
      exec (.deliver D) s = .next t ∧ s.buf ++ D = frames.flatten ++ rest ∧
      t.events = s.events ++ eventsOf frames tail ∧
      match t.result with
      | .idle => False
      | .decoded => t.buf = [] ∧
          ((tail = [] ∧ rest = [] ∧ frames ≠ []) ∨ tail = [.frameBi rest] ∨ tail = [.frameCd])
      | .waiting => t.buf = rest ∧ tail = []
      | .desync => t.buf = [] ∧ tail = [.rxClear] ∧ frames = []
      | .partialDiscard => t.buf = [] ∧ tail = []
      | .refused => False

/-- A delivery reads nothing of the state but `BUF`, `MISS`, `TABLE` and the capacity: two states that agree on
those end alike, whatever the status and scratch registers held (R10, R110, 93 U12, U13). -/
def Obligations.DeliverReadsOnlyBufMissTable : Prop :=
  ∀ (s1 s2 : State) (D : List Byte), s1.buf = s2.buf → s1.miss = s2.miss → s1.table = s2.table →
    s1.bufCap = s2.bufCap →
    ∃ (t1 t2 : State) (evs : List Event), exec (.deliver D) s1 = .next t1 ∧ exec (.deliver D) s2 = .next t2 ∧
      t1.events = s1.events ++ evs ∧ t2.events = s2.events ++ evs ∧
      t1.buf = t2.buf ∧ t1.miss = t2.miss ∧ t1.table = t2.table ∧ t1.result = t2.result ∧
      (Fits s1 D → t1.kind = t2.kind ∧ t1.cause = t2.cause ∧ t1.phase = t2.phase)

/-- Three consecutive unrecognizable batches clear the buffer and the counter; a fourth starts a fresh count
(R106 (b), R117). -/
def Obligations.ThreeMissesRecoverAndTheFourthStartsAfresh : Prop :=
  ∀ (s : State) (D1 D2 D3 D4 : List Byte), s.miss = 0 → s.bufCap = none →
    IsUnknown s.table (s.buf ++ D1) → IsUnknown s.table (s.buf ++ D1 ++ D2) →
    IsUnknown s.table (s.buf ++ D1 ++ D2 ++ D3) → IsUnknown s.table D4 →
    ∃ t1 t2 t3 t4 : State, exec (.deliver D1) s = .next t1 ∧ exec (.deliver D2) t1 = .next t2 ∧
      exec (.deliver D3) t2 = .next t3 ∧ exec (.deliver D4) t3 = .next t4 ∧
      t1.buf = s.buf ++ D1 ∧ t1.miss = 1 ∧ t2.buf = s.buf ++ D1 ++ D2 ∧ t2.miss = 2 ∧
      t3.buf = [] ∧ t3.miss = 0 ∧ t3.result = .desync ∧ t3.events = s.events ++ [.rxClear] ∧
      t4.buf = D4 ∧ t4.miss = 1 ∧ t4.result = .waiting ∧ t4.events = t3.events

/-! ### Frames on the wire -/

/-- A run of wire bytes in one of the three formats arrives as the batch of a delivery (R51, R53; assumption 9
for frames as operations). -/
def Obligations.WireBytesArriveAsADelivery : Prop :=
  ∀ (s : State) (L : Word16) (rest : List Byte), ∃ t1 t2 t3 : State,
    exec (.frameBi rest) s = .next t1 ∧
    exec (.deliver ([0x00, 0x24, 0x24, 0xFF, 0xFE] ++ rest)) s = .next t1 ∧
    exec (.frameCh L rest) s = .next t2 ∧
    exec (.deliver ([0x24, 0x24, L.truncate 8, (L >>> 8).truncate 8, 0xFF, 0x01] ++ rest)) s = .next t2 ∧
    exec (.frameCd rest) s = .next t3 ∧
    exec (.deliver ([0x24, 0x24, 0x0A, 0x00, 0xFF, 0x02] ++ rest)) s = .next t3

/-- A BatteryInfo frame into an empty buffer is handed over whole, whatever its bytes 5 and 6 and its payload
(R53, R86, R100; assumption 9 for the format as an operation). -/
def Obligations.BatteryInfoFrameIsHandedOver : Prop :=
  ∀ (s : State) (b5 b6 : Byte) (payload : List Byte), s.buf = [] → s.bufCap = none →
    exec (.frameBi ([b5, b6] ++ payload ++ [0x0D, 0x0A])) s = .next { s with
      buf := [], miss := 0, kind := .batteryInfo, cause := .none, result := .decoded, phase := .idle
      events := s.events ++
        [.frameBi ([0x00, 0x24, 0x24, 0xFF, 0xFE, b5, b6] ++ payload ++ [0x0D, 0x0A])] }

/-- A ChartDisplay frame into an empty buffer is noticed, and bytes behind it that end in `0D 0A` are cleared with
it (R53, R87, R101; assumption 9 for the format as an operation). -/
def Obligations.ChartDisplayFrameIsNoticed : Prop :=
  ∀ (s : State) (behind : List Byte), s.table = builtTable → s.buf = [] → s.bufCap = none →
    ∃ t : State, exec (.frameCd ([0xBE, 0x2F] ++ behind ++ [0x0D, 0x0A])) s = .next t ∧ t = { s with
      buf := [], miss := 0, kind := .chartDisplay, cause := .none, result := .decoded, phase := .idle
      eng := t.eng, len := t.len, events := s.events ++ [.frameCd] }

/-- R79 (b) with the recipe of R78: a Chart frame built around any payload, delivered into an empty buffer, is
classified Chart and handed over byte for byte, and the transport is told to drop its length. Its first
clause runs the format as an operation (assumption 9). -/
def Obligations.BuiltChartFrameIsHandedOverUnchanged : Prop :=
  ∀ (s : State) (payload : List Byte), s.table = builtTable → s.buf = [] → s.bufCap = none →
    payload.length ≤ 65525 →
    ∃ t : State,
      exec (.frameCh (BitVec.ofNat 16 (10 + payload.length)) (chartFrameRest payload)) s = .next t ∧
      exec (.deliver (chartFrame payload)) s = .next t ∧ t = { s with
        buf := [], miss := 0, kind := .chart, cause := .none, result := .decoded, phase := .idle
        eng := t.eng, len := t.len
        events := s.events ++ [.frameChart (chartFrame payload), .rxDrop (10 + payload.length)] }

/-! ### Reset -/

/-- R130: what `RESET` leaves; it emits no event. Nothing is said of the scratch registers, which R130 leaves
unspecified. -/
def Obligations.ResetResult : Prop :=
  ∀ s : State, ∃ t : State, exec .reset s = .next t ∧
    (∀ b : Byte, t.table.read b =
      (fun v : Word16 => if v.getLsbD 0 then (v >>> 1) ^^^ 0x8408 else v >>> 1)^[8] (b.zeroExtend 16)) ∧
    t = { s with
      buf := [], miss := 0, kind := .unknown, cause := .none, result := .idle, fault := 0, phase := .idle
      table := t.table, eng := t.eng, len := t.len, free := t.free }

/-- R28: the values after reset that the rule states. -/
def Obligations.ResetStateValues : Prop :=
  State.reset.buf = [] ∧ State.reset.miss = 0 ∧ State.reset.kind = .unknown ∧ State.reset.cause = .none ∧
  State.reset.result = .idle ∧ State.reset.fault = 0 ∧ State.reset.phase = .idle ∧
  State.reset.table = builtTable

/-! ### Whole machine -/

/-- The codes of the status registers and of the events (R18 to R20, R21, R52). -/
def Obligations.StatusAndEventCodes : Prop :=
  ([Kind.unknown, .batteryInfo, .chart, .chartDisplay].map kindCode = [0, 1, 2, 3]) ∧
  ([Phase.idle, .classifying, .complete, .insufficient, .desyncSuspect].map phaseCode = [0, 1, 2, 3, 4]) ∧
  ([Cause.none, .incompleteFrame, .unrecognizedSignature, .trailerMissing, .checksumMismatch,
    .malformedPayload, .partialChartFrame].map causeCode = [0, 1, 2, 3, 4, 5, 6]) ∧
  ([Result.idle, .decoded, .waiting, .desync, .partialDiscard, .refused].map resultCode =
    [0, 1, 2, 3, 4, 5]) ∧
  ([Event.frameBi [], .frameChart [], .frameCd, .rxDrop 0, .rxClear].map eventCode =
    [0x80, 0x81, 0x82, 0x90, 0x91])

/-- Everything the outside can present completes: a delivery, a reset, a reserved code, a push (R95, R103, and 93
part 1, "every command terminates"). A `RESET` code with operand bytes is no command of the spec
(assumption 10). -/
def Obligations.EveryCommandCompletes : Prop :=
  ∀ (s : State) (r : Request) (rest : List Request), s.pending = r :: rest → fromOutside r = true →
    (∀ b bs, r ≠ .port 0x00 (b :: bs)) → ∃ t : State, step s = .next t ∧ t.pending = rest

/-- R23, R44, R135: nothing but `RESET` and the `TBLGEN` it performs writes `TABLE`, and those leave the built
contents. -/
def Obligations.TableIsNeverWrittenOtherwise : Prop :=
  ∀ (i : Instr) (s t : State), exec i s = .next t →
    ((i = .reset ∨ i = .tblgen) → t.table = builtTable) ∧
    ((i ≠ .reset ∧ i ≠ .tblgen) → t.table = s.table)

/-- R22: the bits of `FAULT` are sticky until `RESET`, and with no capacity `OVERFLOW` is never set. -/
def Obligations.FaultBitsAreSticky : Prop :=
  ∀ (i : Instr) (s t : State), exec i s = .next t → i ≠ .reset →
    (faultOverflow s.fault = true → faultOverflow t.fault = true) ∧
    (faultIllCmd t.fault = faultIllCmd s.fault) ∧
    (s.bufCap = none → t.fault = s.fault)

/-- R35, R36: whatever an operation does, the buffer afterwards is what it was with the arriving bytes behind it,
less a run at the front: no byte is changed in place, inserted or taken from the middle. Bytes that exceed the
capacity do not arrive, and the buffer is then what it was (R91). -/
def Obligations.BufferIsAContiguousRunOfTheStream : Prop :=
  ∀ (i : Instr) (s t : State), exec i s = .next t →
    (∃ n, t.buf = (s.buf ++ arriving i).drop n) ∨ (¬ Fits s (arriving i) ∧ t.buf = s.buf)

/-- Every step, of a command or of a unit operation by name, keeps the registers in their ranges, `TABLE` as
built and `BUF` within the capacity (R15, R16, R17, R20, R23, R24). -/
def Obligations.EveryStepKeepsRegistersOk : Prop :=
  ∀ s t : State, s.RegistersOk → step s = .next t → t.RegistersOk

/-- The state after reset has its registers in range. -/
def Obligations.ResetRegistersOk : Prop := State.reset.RegistersOk

/-- R27 with R105, derived there: between commands `PHASE` is Idle, `MISS` is 0, 1 or 2, and the last ending says
what `BUF`, `MISS`, `KIND` and `CAUSE` hold; every step of the outside's requests keeps it. -/
def Obligations.EveryCommandKeepsBetweenCommands : Prop :=
  ∀ s t : State, s.BetweenCommands → step s = .next t → t.BetweenCommands

/-- After reset it holds, whatever the outside goes on to present. -/
def Obligations.ResetBetweenCommands : Prop :=
  ∀ requests : List Request, (∀ r ∈ requests, fromOutside r = true) →
    State.BetweenCommands { State.reset with pending := requests }

/-! ### Operands outside their ranges -/

/-- The model's stop (assumption 14): an `RX_DROP` named alone with a count outside `4 <= N <= 65535` is no event of
R52, and a `DISPATCH(Chart)` named alone that would emit one stops. -/
def Obligations.RxDropOutsideItsRangeStops : Prop :=
  (∀ (s : State) (n : Nat), n < 4 ∨ 65535 < n → exec (.evRxDrop n) s = .fault .dropOutside) ∧
  (∀ s : State, s.len + 2 < 4 ∨ 65535 < s.len + 2 → s.len + 2 ≤ (s.buf.length : Int) →
    exec (.dispatch .chart) s = .fault .dropOutside)
end

