-- ==== Sys2Proof/Laws/Decode.lean ====
section
/-! SUPPORT. Counts as little-endian bytes: what the decoder reads from a count's bytes, and the bytes the encoder
writes for it. -/

namespace Sys2Proof

theorem wordBytes_length (k n : Nat) : (wordBytes k n).length = k := by
  induction k generalizing n with
  | zero => rfl
  | succ k ih => simp [wordBytes, ih]

theorem leNat_wordBytes (k n : Nat) : leNat (wordBytes k n) = n % 256 ^ k := by
  induction k generalizing n with
  | zero => simp [wordBytes, leNat, Nat.mod_one]
  | succ k ih => simp [wordBytes, leNat, ih, Nat.pow_succ', Nat.mod_mul]

theorem wordBytes_leNat (bs : List Byte) : wordBytes bs.length (leNat bs) = bs := by
  induction bs with
  | nil => rfl
  | cons b bs ih =>
    have hb := b.isLt
    have h1 : BitVec.ofNat 8 (leNat (b :: bs)) = b := by
      apply BitVec.eq_of_toNat_eq; simp [leNat]; omega
    have h2 : leNat (b :: bs) / 256 = leNat bs := by simp only [leNat]; omega
    simp only [List.length_cons, wordBytes, h1, h2, ih]

theorem leNat_lt (bs : List Byte) : leNat bs < 256 ^ bs.length := by
  induction bs with
  | nil => simp [leNat]
  | cons b bs ih =>
    have hb := b.isLt
    simp only [leNat, List.length_cons, Nat.pow_succ']; omega

/-- A last byte other than zero makes the number as long as its bytes. -/
theorem le_leNat (bs : List Byte) (h0 : bs ≠ []) (h : bs.getLast? ≠ some 0) :
    256 ^ (bs.length - 1) ≤ leNat bs := by
  induction bs with
  | nil => exact absurd rfl h0
  | cons b bs ih =>
    cases bs with
    | nil =>
      have : b.toNat ≠ 0 := fun hb => h (by simp [BitVec.eq_of_toNat_eq (y := 0) (by simpa using hb)])
      simp [leNat]; omega
    | cons c cs =>
      have := ih (by simp) (by simpa using h)
      simp only [List.length_cons, Nat.add_sub_cancel] at this ⊢
      simp only [leNat, Nat.pow_succ'] at this ⊢
      omega

/-- A last byte of zero adds nothing to the number. -/
theorem leNat_append_zero (bs : List Byte) : leNat (bs ++ [0]) = leNat bs := by
  induction bs with
  | nil => rfl
  | cons b bs ih => simp only [List.cons_append, leNat, ih]

theorem countBytes_length (n : Nat) : (countBytes n).length = max 2 (n.log2 / 8 + 1) := wordBytes_length _ _

theorem leNat_countBytes (n : Nat) : leNat (countBytes n) = n := by
  rw [countBytes, leNat_wordBytes]
  apply Nat.mod_eq_of_lt
  have h : n < 2 ^ (n.log2 + 1) := Nat.lt_log2_self
  refine Nat.lt_of_lt_of_le h ?_
  rw [show (256 : Nat) = 2 ^ 8 from rfl, ← Nat.pow_mul]
  exact Nat.pow_le_pow_right (by decide) (by omega)

/-- The bytes of a count are those of its length, with no zero byte last behind the second. -/
theorem countBytes_leNat (bs : List Byte) (h2 : 2 ≤ bs.length) (h : 2 < bs.length → bs.getLast? ≠ some 0) :
    countBytes (leNat bs) = bs := by
  have hk : max 2 ((leNat bs).log2 / 8 + 1) = bs.length := by
    have hlt := leNat_lt bs
    rw [show (256 : Nat) = 2 ^ 8 from rfl, ← Nat.pow_mul] at hlt
    have hu : (leNat bs).log2 < 8 * bs.length := by
      by_cases hz : leNat bs = 0
      · simp [hz]; omega
      · exact (Nat.log2_lt hz).2 hlt
    by_cases hl : 2 < bs.length
    · have hge := le_leNat bs (by rintro rfl; simp at hl) (h hl)
      rw [show (256 : Nat) = 2 ^ 8 from rfl, ← Nat.pow_mul] at hge
      have hz : leNat bs ≠ 0 := by have := Nat.two_pow_pos (8 * (bs.length - 1)); omega
      have := (Nat.le_log2 hz).2 hge
      omega
    · omega
  rw [countBytes, hk, wordBytes_leNat]

/-- What `parseCount` reads is a count whose bytes are the operand. -/
theorem parseCount_eq_ok (code : Byte) (mk : Nat → Instr) (bs : List Byte) (i : Instr)
    (h : parseCount code mk bs = .ok i) : ∃ n, i = mk n ∧ bs = countBytes n := by
  match bs with
  | [] => cases h
  | [_] => cases h
  | lo :: hi :: more =>
    simp only [parseCount] at h
    split at h
    · cases h
    · rename_i hm
      refine ⟨_, (Except.ok.inj h).symm, (countBytes_leNat _ (by simp) fun hl => ?_).symm⟩
      cases more with
      | nil => simp at hl
      | cons c cs => simpa using hm

/-- The bytes of a count are read as that count. -/
theorem parseCount_countBytes (code : Byte) (mk : Nat → Instr) (n : Nat) :
    parseCount code mk (countBytes n) = .ok (mk n) := by
  have hlen := countBytes_length n
  have hn := leNat_countBytes n
  match hb : countBytes n with
  | [] => rw [hb] at hlen; simp at hlen; omega
  | [_] => rw [hb] at hlen; simp at hlen; omega
  | lo :: hi :: more =>
    rw [hb] at hlen hn
    have hm : more.getLast? ≠ some 0 := by
      intro hz
      obtain ⟨init, rfl⟩ := List.getLast?_eq_some_iff.1 hz
      have hlt := leNat_lt (lo :: hi :: init)
      rw [← leNat_append_zero, List.cons_append, List.cons_append, hn,
        show (256 : Nat) = 2 ^ 8 from rfl, ← Nat.pow_mul] at hlt
      have hu : n.log2 < 8 * (lo :: hi :: init).length := by
        by_cases h0 : n = 0
        · simp [h0]
        · exact (Nat.log2_lt h0).2 hlt
      simp at hlen hu
      omega
    rw [parseCount, if_neg hm, hn]

end Sys2Proof
end

