-- ==== Sys2Proof/Laws/State.lean ====
section
/-! SUPPORT. What each update of the state leaves in each field, by definition. -/

namespace Sys2Proof.Machine

variable (s : State)

/-! ### `emit` -/

@[simp] theorem emit_buf (E : Event) : (emit E s).buf = s.buf := rfl
@[simp] theorem emit_miss (E : Event) : (emit E s).miss = s.miss := rfl
@[simp] theorem emit_kind (E : Event) : (emit E s).kind = s.kind := rfl
@[simp] theorem emit_cause (E : Event) : (emit E s).cause = s.cause := rfl
@[simp] theorem emit_result (E : Event) : (emit E s).result = s.result := rfl
@[simp] theorem emit_fault (E : Event) : (emit E s).fault = s.fault := rfl
@[simp] theorem emit_phase (E : Event) : (emit E s).phase = s.phase := rfl
@[simp] theorem emit_eng (E : Event) : (emit E s).eng = s.eng := rfl
@[simp] theorem emit_len (E : Event) : (emit E s).len = s.len := rfl
@[simp] theorem emit_table (E : Event) : (emit E s).table = s.table := rfl
@[simp] theorem emit_events (E : Event) : (emit E s).events = s.events ++ [E] := rfl
@[simp] theorem emit_value (E : Event) : (emit E s).value = s.value := rfl
@[simp] theorem emit_pending (E : Event) : (emit E s).pending = s.pending := rfl
@[simp] theorem emit_bufCap (E : Event) : (emit E s).bufCap = s.bufCap := rfl
@[simp] theorem emit_free (E : Event) : (emit E s).free = s.free := rfl

/-! ### `raiseCause` -/

@[simp] theorem raiseCause_buf (c : Cause) : (raiseCause c s).buf = s.buf := rfl
@[simp] theorem raiseCause_miss (c : Cause) : (raiseCause c s).miss = s.miss := rfl
@[simp] theorem raiseCause_kind (c : Cause) : (raiseCause c s).kind = s.kind := rfl
@[simp] theorem raiseCause_cause (c : Cause) : (raiseCause c s).cause = c := rfl
@[simp] theorem raiseCause_result (c : Cause) : (raiseCause c s).result = s.result := rfl
@[simp] theorem raiseCause_fault (c : Cause) : (raiseCause c s).fault = s.fault := rfl
@[simp] theorem raiseCause_phase (c : Cause) : (raiseCause c s).phase = s.phase := rfl
@[simp] theorem raiseCause_eng (c : Cause) : (raiseCause c s).eng = s.eng := rfl
@[simp] theorem raiseCause_len (c : Cause) : (raiseCause c s).len = s.len := rfl
@[simp] theorem raiseCause_table (c : Cause) : (raiseCause c s).table = s.table := rfl
@[simp] theorem raiseCause_events (c : Cause) : (raiseCause c s).events = s.events := rfl
@[simp] theorem raiseCause_value (c : Cause) : (raiseCause c s).value = s.value := rfl
@[simp] theorem raiseCause_pending (c : Cause) : (raiseCause c s).pending = s.pending := rfl
@[simp] theorem raiseCause_bufCap (c : Cause) : (raiseCause c s).bufCap = s.bufCap := rfl
@[simp] theorem raiseCause_free (c : Cause) : (raiseCause c s).free = s.free := rfl

/-! ### `finish` -/

@[simp] theorem finish_buf (r : Result) : (finish r s).buf = s.buf := rfl
@[simp] theorem finish_miss (r : Result) : (finish r s).miss = s.miss := rfl
@[simp] theorem finish_kind (r : Result) : (finish r s).kind = s.kind := rfl
@[simp] theorem finish_cause (r : Result) : (finish r s).cause = s.cause := rfl
@[simp] theorem finish_result (r : Result) : (finish r s).result = r := rfl
@[simp] theorem finish_fault (r : Result) : (finish r s).fault = s.fault := rfl
@[simp] theorem finish_phase (r : Result) : (finish r s).phase = .idle := rfl
@[simp] theorem finish_eng (r : Result) : (finish r s).eng = s.eng := rfl
@[simp] theorem finish_len (r : Result) : (finish r s).len = s.len := rfl
@[simp] theorem finish_table (r : Result) : (finish r s).table = s.table := rfl
@[simp] theorem finish_events (r : Result) : (finish r s).events = s.events := rfl
@[simp] theorem finish_value (r : Result) : (finish r s).value = s.value := rfl
@[simp] theorem finish_pending (r : Result) : (finish r s).pending = s.pending := rfl
@[simp] theorem finish_bufCap (r : Result) : (finish r s).bufCap = s.bufCap := rfl
@[simp] theorem finish_free (r : Result) : (finish r s).free = s.free := rfl

/-! ### `returnValue` -/

@[simp] theorem returnValue_buf (v : OpResult) : (returnValue v s).buf = s.buf := rfl
@[simp] theorem returnValue_miss (v : OpResult) : (returnValue v s).miss = s.miss := rfl
@[simp] theorem returnValue_kind (v : OpResult) : (returnValue v s).kind = s.kind := rfl
@[simp] theorem returnValue_cause (v : OpResult) : (returnValue v s).cause = s.cause := rfl
@[simp] theorem returnValue_result (v : OpResult) : (returnValue v s).result = s.result := rfl
@[simp] theorem returnValue_fault (v : OpResult) : (returnValue v s).fault = s.fault := rfl
@[simp] theorem returnValue_phase (v : OpResult) : (returnValue v s).phase = s.phase := rfl
@[simp] theorem returnValue_eng (v : OpResult) : (returnValue v s).eng = s.eng := rfl
@[simp] theorem returnValue_len (v : OpResult) : (returnValue v s).len = s.len := rfl
@[simp] theorem returnValue_table (v : OpResult) : (returnValue v s).table = s.table := rfl
@[simp] theorem returnValue_events (v : OpResult) : (returnValue v s).events = s.events := rfl
@[simp] theorem returnValue_value (v : OpResult) : (returnValue v s).value = v := rfl
@[simp] theorem returnValue_pending (v : OpResult) : (returnValue v s).pending = s.pending := rfl
@[simp] theorem returnValue_bufCap (v : OpResult) : (returnValue v s).bufCap = s.bufCap := rfl
@[simp] theorem returnValue_free (v : OpResult) : (returnValue v s).free = s.free := rfl

/-! ### `truncBuf` -/

@[simp] theorem truncBuf_buf (k : Nat) : (truncBuf k s).buf = s.buf.drop k := rfl
@[simp] theorem truncBuf_miss (k : Nat) : (truncBuf k s).miss = s.miss := rfl
@[simp] theorem truncBuf_kind (k : Nat) : (truncBuf k s).kind = s.kind := rfl
@[simp] theorem truncBuf_cause (k : Nat) : (truncBuf k s).cause = s.cause := rfl
@[simp] theorem truncBuf_result (k : Nat) : (truncBuf k s).result = s.result := rfl
@[simp] theorem truncBuf_fault (k : Nat) : (truncBuf k s).fault = s.fault := rfl
@[simp] theorem truncBuf_phase (k : Nat) : (truncBuf k s).phase = s.phase := rfl
@[simp] theorem truncBuf_eng (k : Nat) : (truncBuf k s).eng = s.eng := rfl
@[simp] theorem truncBuf_len (k : Nat) : (truncBuf k s).len = s.len := rfl
@[simp] theorem truncBuf_table (k : Nat) : (truncBuf k s).table = s.table := rfl
@[simp] theorem truncBuf_events (k : Nat) : (truncBuf k s).events = s.events := rfl
@[simp] theorem truncBuf_value (k : Nat) : (truncBuf k s).value = s.value := rfl
@[simp] theorem truncBuf_pending (k : Nat) : (truncBuf k s).pending = s.pending := rfl
@[simp] theorem truncBuf_bufCap (k : Nat) : (truncBuf k s).bufCap = s.bufCap := rfl
@[simp] theorem truncBuf_free (k : Nat) : (truncBuf k s).free = s.free := rfl

/-! ### `clearBuf` -/

@[simp] theorem clearBuf_buf : (clearBuf s).buf = [] := rfl
@[simp] theorem clearBuf_miss : (clearBuf s).miss = s.miss := rfl
@[simp] theorem clearBuf_kind : (clearBuf s).kind = s.kind := rfl
@[simp] theorem clearBuf_cause : (clearBuf s).cause = s.cause := rfl
@[simp] theorem clearBuf_result : (clearBuf s).result = s.result := rfl
@[simp] theorem clearBuf_fault : (clearBuf s).fault = s.fault := rfl
@[simp] theorem clearBuf_phase : (clearBuf s).phase = s.phase := rfl
@[simp] theorem clearBuf_eng : (clearBuf s).eng = s.eng := rfl
@[simp] theorem clearBuf_len : (clearBuf s).len = s.len := rfl
@[simp] theorem clearBuf_table : (clearBuf s).table = s.table := rfl
@[simp] theorem clearBuf_events : (clearBuf s).events = s.events := rfl
@[simp] theorem clearBuf_value : (clearBuf s).value = s.value := rfl
@[simp] theorem clearBuf_pending : (clearBuf s).pending = s.pending := rfl
@[simp] theorem clearBuf_bufCap : (clearBuf s).bufCap = s.bufCap := rfl
@[simp] theorem clearBuf_free : (clearBuf s).free = s.free := rfl

/-! ### `beginCommand` -/

@[simp] theorem beginCommand_buf (rest : List Request) : (beginCommand rest s).buf = s.buf := rfl
@[simp] theorem beginCommand_miss (rest : List Request) : (beginCommand rest s).miss = s.miss := rfl
@[simp] theorem beginCommand_kind (rest : List Request) : (beginCommand rest s).kind = s.kind := rfl
@[simp] theorem beginCommand_cause (rest : List Request) : (beginCommand rest s).cause = s.cause := rfl
@[simp] theorem beginCommand_result (rest : List Request) : (beginCommand rest s).result = s.result := rfl
@[simp] theorem beginCommand_fault (rest : List Request) : (beginCommand rest s).fault = s.fault := rfl
@[simp] theorem beginCommand_phase (rest : List Request) : (beginCommand rest s).phase = s.phase := rfl
@[simp] theorem beginCommand_eng (rest : List Request) : (beginCommand rest s).eng = s.eng := rfl
@[simp] theorem beginCommand_len (rest : List Request) : (beginCommand rest s).len = s.len := rfl
@[simp] theorem beginCommand_table (rest : List Request) : (beginCommand rest s).table = s.table := rfl
@[simp] theorem beginCommand_events (rest : List Request) : (beginCommand rest s).events = [] := rfl
@[simp] theorem beginCommand_value (rest : List Request) : (beginCommand rest s).value = .none := rfl
@[simp] theorem beginCommand_pending (rest : List Request) : (beginCommand rest s).pending = rest := rfl
@[simp] theorem beginCommand_bufCap (rest : List Request) : (beginCommand rest s).bufCap = s.bufCap := rfl
@[simp] theorem beginCommand_free (rest : List Request) : (beginCommand rest s).free = s.free := rfl

/-! ### `desyncRecovery` -/

@[simp] theorem desyncRecovery_buf : (desyncRecovery s).buf = [] := rfl
@[simp] theorem desyncRecovery_miss : (desyncRecovery s).miss = 0 := rfl
@[simp] theorem desyncRecovery_kind : (desyncRecovery s).kind = s.kind := rfl
@[simp] theorem desyncRecovery_cause : (desyncRecovery s).cause = s.cause := rfl
@[simp] theorem desyncRecovery_result : (desyncRecovery s).result = .desync := rfl
@[simp] theorem desyncRecovery_fault : (desyncRecovery s).fault = s.fault := rfl
@[simp] theorem desyncRecovery_phase : (desyncRecovery s).phase = .desyncSuspect := rfl
@[simp] theorem desyncRecovery_eng : (desyncRecovery s).eng = s.eng := rfl
@[simp] theorem desyncRecovery_len : (desyncRecovery s).len = s.len := rfl
@[simp] theorem desyncRecovery_table : (desyncRecovery s).table = s.table := rfl
@[simp] theorem desyncRecovery_events : (desyncRecovery s).events = s.events ++ [.rxClear] := rfl
@[simp] theorem desyncRecovery_value : (desyncRecovery s).value = s.value := rfl
@[simp] theorem desyncRecovery_pending : (desyncRecovery s).pending = s.pending := rfl
@[simp] theorem desyncRecovery_bufCap : (desyncRecovery s).bufCap = s.bufCap := rfl
@[simp] theorem desyncRecovery_free : (desyncRecovery s).free = s.free := rfl

/-! ### `resetBlock` -/

@[simp] theorem resetBlock_buf : (resetBlock s).buf = [] := rfl
@[simp] theorem resetBlock_miss : (resetBlock s).miss = 0 := rfl
@[simp] theorem resetBlock_kind : (resetBlock s).kind = .unknown := rfl
@[simp] theorem resetBlock_cause : (resetBlock s).cause = .none := rfl
@[simp] theorem resetBlock_result : (resetBlock s).result = .idle := rfl
@[simp] theorem resetBlock_fault : (resetBlock s).fault = 0 := rfl
@[simp] theorem resetBlock_phase : (resetBlock s).phase = .idle := rfl
@[simp] theorem resetBlock_eng : (resetBlock s).eng = freeEngine s.free := rfl
@[simp] theorem resetBlock_len : (resetBlock s).len = freeLen s.free := rfl
@[simp] theorem resetBlock_table : (resetBlock s).table = builtTable := rfl
@[simp] theorem resetBlock_events : (resetBlock s).events = s.events := rfl
@[simp] theorem resetBlock_value : (resetBlock s).value = s.value := rfl
@[simp] theorem resetBlock_pending : (resetBlock s).pending = s.pending := rfl
@[simp] theorem resetBlock_bufCap : (resetBlock s).bufCap = s.bufCap := rfl
@[simp] theorem resetBlock_free : (resetBlock s).free = s.free + 1 := rfl

end Sys2Proof.Machine
end

