-- ==== Sys2Proof/Laws/Memory.lean ====
section
/-! SUPPORT. The buffer as memory: its canonical form, what the three writes do to each byte (20_memory.md R35,
R36), and that each keeps the form. -/

namespace Sys2Proof.Machine

theorem Memory.cells_length (B : List Byte) : (Memory.cells B).length = B.length := by simp [Memory.cells]

/-- The cells of a byte sequence are in canonical form. -/
theorem Memory.cells_wf (B : List Byte) : Memory.wf (Memory.cells B) = true := by
  have h : (Memory.cells B).map Prod.fst = List.range B.length := by
    simp only [Memory.cells, List.map_map]
    have : (Prod.fst ∘ fun p : Byte × Nat => (p.2, p.1)) = Prod.snd := rfl
    rw [this, List.zipIdx_map_snd, List.range_eq_range']
  simp [Memory.wf, h, Memory.cells_length]

/-- The cell of address `a` holds the byte that a read of `a` gives. -/
theorem mem_memory_cells (B : List Byte) (a : Nat) (b : Byte) :
    (a, b) ∈ Memory.cells B ↔ memRead1 B a = some b := by
  simp [Memory.cells, memRead1, List.mem_zipIdx_iff_getElem?]

theorem reset_memory_wf : Memory.wf (Memory.cells State.reset.buf) = true := Memory.cells_wf _

theorem appendBatch_memory_wf (D : List Byte) (s : State) :
    Memory.wf (Memory.cells (appendBatch D s).1.buf) = true := Memory.cells_wf _

theorem truncBuf_memory_wf (k : Nat) (s : State) : Memory.wf (Memory.cells (truncBuf k s).buf) = true :=
  Memory.cells_wf _

theorem clearBuf_memory_wf (s : State) : Memory.wf (Memory.cells (clearBuf s).buf) = true := Memory.cells_wf _

/-- Bytes already present keep their indices when a batch is appended (R90). -/
theorem memRead1_append_left (B D : List Byte) (a : Nat) (h : a < B.length) :
    memRead1 (B ++ D) a = memRead1 B a := by
  simp [memRead1, List.getElem?_append_left h]

/-- The bytes of the batch follow in their order of arrival (R90). -/
theorem memRead1_append_right (B D : List Byte) (i : Nat) :
    memRead1 (B ++ D) (B.length + i) = memRead1 D i := by
  simp [memRead1, List.getElem?_append_right]

/-- After a front truncation by `k`, index `a` holds what index `k + a` held (R92). -/
theorem memRead1_drop (B : List Byte) (k a : Nat) : memRead1 (B.drop k) a = memRead1 B (k + a) := by
  simp [memRead1]

end Sys2Proof.Machine
end

