-- ==== Sys2Proof/Laws/Ops.lean ====
section
/-! SUPPORT. What each shared operation can do, said once: a caller cites these and does not unfold the
operation. -/

namespace Sys2Proof.Machine

/-! ### Checksum Engine -/

theorem crcLoop_append (T : CrcTable) (F : Int) (xs ys : List Byte) (e : Engine) :
    crcLoop T F (xs ++ ys) e = crcLoop T F ys (crcLoop T F xs e) := by
  induction xs generalizing e with
  | nil => rfl
  | cons x xs ih => exact ih _

/-- `CRC` after the loop: the CRC steps of the bytes in order. -/
theorem crcLoop_crc (T : CrcTable) (F : Int) (bs : List Byte) (e : Engine) :
    (crcLoop T F bs e).crc = bs.foldl (crcStep T) e.crc := by
  induction bs generalizing e with
  | nil => rfl
  | cons b bs ih => simp [crcLoop, ih, crcIteration]

/-- `IDX` after the loop: one more for each byte. -/
theorem crcLoop_idx (T : CrcTable) (F : Int) (bs : List Byte) (e : Engine) :
    (crcLoop T F bs e).idx = e.idx + bs.length := by
  induction bs generalizing e with
  | nil => rfl
  | cons b bs ih => simp [crcLoop, ih, crcIteration]; omega

/-- `DEVCK` is not written by the loop. -/
theorem crcLoop_devck (T : CrcTable) (F : Int) (bs : List Byte) (e : Engine) :
    (crcLoop T F bs e).devck = e.devck := by
  induction bs generalizing e with
  | nil => rfl
  | cons b bs ih => simp [crcLoop, ih, crcIteration]

/-- `CRCPAIR`: `CRC` and `IDX` afterwards, for every `F`. -/
theorem crcPair_crc_idx (T : CrcTable) (B : List Byte) (F : Int) (e : Engine) :
    (crcPair T B F e).crc = (B.take F.toNat).foldl (crcStep T) crcInit ∧
    (crcPair T B F e).idx = (B.take F.toNat).length := by
  simp [crcPair, crcLoop_crc, crcLoop_idx]

/-! ### Fields of a byte sequence -/

theorem memRead2_eq_some (B : List Byte) (a : Nat) (w : Word16) :
    memRead2 B a = some w ↔ ∃ lo hi, B[a]? = some lo ∧ B[a + 1]? = some hi ∧ w = le16 lo hi := by
  unfold memRead2 memRead1
  cases h0 : B[a]? <;> cases h1 : B[a + 1]? <;> simp [eq_comm]

/-- `FLEN` has a value exactly on four bytes or more, and it is in the range of `LEN`. -/
theorem frameLength_eq_some (B : List Byte) (F : Int) (h : frameLength B = some F) :
    4 ≤ B.length ∧ -2 ≤ F ∧ F ≤ 65533 := by
  simp only [frameLength, lengthField, Option.map_eq_some_iff] at h
  obtain ⟨L, hL, rfl⟩ := h
  obtain ⟨lo, hi, -, h3, -⟩ := (memRead2_eq_some B 2 L).1 hL
  have := (List.getElem?_eq_some_iff.1 h3).1
  have := L.isLt
  omega

theorem frameLength_exists (B : List Byte) (h : 4 ≤ B.length) : ∃ F, frameLength B = some F := by
  refine ⟨((le16 B[2] B[3]).toNat : Int) - 2, ?_⟩
  have : memRead2 B 2 = some (le16 B[2] B[3]) :=
    (memRead2_eq_some B 2 _).2 ⟨B[2], B[3], by simp, by simp, rfl⟩
  simp [frameLength, lengthField, this]

/-- What `CKVALID` can leave. -/
theorem ckValid_cases (T : CrcTable) (B : List Byte) (eng : Engine) (len : Int) :
    (frameLength B = none ∧ ckValid T B eng len = ⟨eng, len, false⟩) ∨
    ∃ F, frameLength B = some F ∧
      (((F < 2 ∨ (B.length : Int) < F) ∧ ckValid T B eng len = ⟨eng, F, false⟩) ∨
       (2 ≤ F ∧ F ≤ (B.length : Int) ∧ ckValid T B eng len =
          ⟨crcPair T B F eng, F, (crcPair T B F eng).crc == crcResidue &&
            receivedChecksum B F == some (crcPair T B F eng).devck⟩)) := by
  unfold ckValid
  cases hF : frameLength B with
  | none => exact .inl ⟨rfl, rfl⟩
  | some F =>
    refine .inr ⟨F, rfl, ?_⟩
    by_cases h : F < 2 ∨ (B.length : Int) < F
    · exact .inl ⟨h, by simp only [if_pos h]⟩
    · exact .inr ⟨by omega, by omega, by simp only [if_neg h]⟩

/-- What `CLASSIFY` can answer: a miss with one of the four classification causes, or a kind whose requirements
hold and, where it has a length field, `LEN` holding it. -/
theorem classify_cases (T : CrcTable) (B : List Byte) (eng : Engine) (len : Int) :
    ((classify T B eng len).kind = .unknown ∧
      ((classify T B eng len).cause = .incompleteFrame ∨ (classify T B eng len).cause = .trailerMissing ∨
       (classify T B eng len).cause = .checksumMismatch ∨
       (classify T B eng len).cause = .unrecognizedSignature)) ∨
    ((classify T B eng len).kind = .batteryInfo ∧ (classify T B eng len).cause = .none ∧
      sigBi B = true ∧ 9 ≤ B.length ∧ trailerOk B = true) ∨
    (((classify T B eng len).kind = .chart ∧ sigCh B = true ∨
      (classify T B eng len).kind = .chartDisplay ∧ sigCh B = false ∧ sigCd B = true) ∧
      (classify T B eng len).cause = .none ∧ 10 ≤ B.length ∧ trailerOk B = true ∧
      frameLength B = some (classify T B eng len).len ∧
      2 ≤ (classify T B eng len).len ∧ (classify T B eng len).len ≤ (B.length : Int) ∧
      (ckValid T B eng (classify T B eng len).len).ok = true) := by
  unfold classify
  split
  · split
    · simp
    · split
      · simp
      · rename_i h1 h2 h3
        refine .inr (.inl ⟨rfl, rfl, h1, ?_, ?_⟩)
        · simpa [minLength, minBi] using h2
        · simpa using h3
  · split
    · rename_i hs
      have hk : minLength (if sigCh B = true then FrameKind.chart else .chartDisplay) = 10 := by
        split <;> rfl
      simp only [hk]
      split
      · simp
      · split
        · simp
        · rename_i hn ht
          split
          · simp
          · rename_i F hF
            split
            · simp
            · rename_i hle
              split
              · rename_i hok
                refine .inr (.inr ?_)
                rcases ckValid_cases T B eng F with ⟨h0, -⟩ | ⟨F', hF', ⟨-, hc⟩ | ⟨h2, h3, hc⟩⟩
                · rw [hF] at h0; cases h0
                · rw [hc] at hok; cases hok
                · obtain rfl : F = F' := Option.some.inj (hF.symm.trans hF')
                  have hl : (ckValid T B eng F).len = F := by rw [hc]
                  refine ⟨?_, rfl, by omega, by simpa using ht, ?_, ?_, ?_, ?_⟩
                  · by_cases h : sigCh B = true
                    · exact .inl ⟨by simp [h, kindOf], h⟩
                    · simp only [Bool.not_eq_true] at h
                      exact .inr ⟨by simp [h, kindOf], h, by simpa [h] using hs⟩
                  · simp only [hl]; exact hF
                  · simp only [hl]; exact h2
                  · simp only [hl]; exact h3
                  · simp only [hl]; exact hok
              · simp
    · split <;> simp

/-! ### ByteBuffer -/

/-- `APPEND` either appends and goes on or, where the capacity is exceeded, refuses and stops. -/
theorem appendBatch_cases (D : List Byte) (s : State) :
    (exceedsCap s.bufCap s.buf.length D.length = false ∧
      appendBatch D s = ({ s with buf := s.buf ++ D }, .proceed)) ∨
    (exceedsCap s.bufCap s.buf.length D.length = true ∧
      appendBatch D s = ({ s with fault := setOverflow s.fault, result := .refused }, .stop)) := by
  unfold appendBatch
  cases h : exceedsCap s.bufCap s.buf.length D.length
  · exact .inl ⟨rfl, rfl⟩
  · exact .inr ⟨rfl, rfl⟩

/-! ### Assembly State Machine -/

/-- `MISSUPD` goes on exactly for a determined kind; a miss is the third, or waits. -/
theorem missUpdate_cases (k : Kind) (s : State) :
    (k ≠ .unknown ∧ missUpdate k s = ({ s with miss := 0, phase := .complete }, .proceed)) ∨
    (k = .unknown ∧ s.miss + 1 = 3 ∧ missUpdate k s =
      ({ s with buf := [], miss := 0, result := .desync, phase := .idle, events := s.events ++ [.rxClear] },
        .stop)) ∨
    (k = .unknown ∧ s.miss + 1 ≠ 3 ∧ missUpdate k s =
      ({ s with miss := s.miss + 1, result := .waiting, phase := .idle }, .stop)) := by
  cases k
  · by_cases h : s.miss + 1 = 3
    · exact .inr (.inl ⟨rfl, h, if_pos h⟩)
    · exact .inr (.inr ⟨rfl, h, if_neg h⟩)
  all_goals exact .inl ⟨by decide, rfl⟩

/-- `DISPATCH(Chart)`: the partial discard, the last frame of the buffer, or a frame with bytes behind it. -/
theorem dispatchChart_cases (s : State) :
    ((s.buf.length : Int) < s.len + 2 ∧ dispatchChart s =
      ({ s with buf := [], cause := .partialChartFrame, result := .partialDiscard, phase := .idle }, .stop)) ∨
    (s.len + 2 ≤ (s.buf.length : Int) ∧ s.buf.drop (s.len + 2).toNat = [] ∧ dispatchChart s =
      ({ s with
          buf := [], result := .decoded, phase := .idle
          events := s.events ++ [.frameChart (s.buf.take (s.len + 2).toNat)] ++
            [.rxDrop (s.len + 2).toNat] }, .stop)) ∨
    (s.len + 2 ≤ (s.buf.length : Int) ∧ s.buf.drop (s.len + 2).toNat ≠ [] ∧ dispatchChart s =
      ({ s with
          buf := s.buf.drop (s.len + 2).toNat
          events := s.events ++ [.frameChart (s.buf.take (s.len + 2).toNat)] ++
            [.rxDrop (s.len + 2).toNat] }, .proceed)) := by
  unfold dispatchChart
  by_cases h : (s.buf.length : Int) < s.len + 2
  · exact .inl ⟨h, by simp [h, finish, raiseCause, clearBuf]⟩
  · by_cases hd : s.buf.drop (s.len + 2).toNat = []
    · refine .inr (.inl ⟨by omega, hd, ?_⟩)
      simp [h, hd, finish, emit, truncBuf]
    · refine .inr (.inr ⟨by omega, hd, ?_⟩)
      simp [h, hd, emit, truncBuf]

/-- What one pass of the delivery loop can do. `s1` is the state after the classification. -/
theorem deliverPass_cases (s s1 : State) (h1 : s1 = classifyBuffer s) :
    (s1.kind = .unknown ∧ deliverPass s = missUpdate .unknown s1) ∨
    (s1.kind = .batteryInfo ∧
      deliverPass s = dispatchBatteryInfo { s1 with miss := 0, phase := .complete }) ∨
    (s1.kind = .chart ∧ deliverPass s = dispatchChart { s1 with miss := 0, phase := .complete }) ∨
    (s1.kind = .chartDisplay ∧
      deliverPass s = dispatchChartDisplay { s1 with miss := 0, phase := .complete }) := by
  subst h1
  unfold deliverPass
  cases h : (classifyBuffer s).kind <;> simp [h, missUpdate, dispatch]

/-- A pass that goes on has consumed one Chart frame of four bytes or more and left bytes behind (R103). -/
theorem deliverPass_proceed (s s' : State) (h : deliverPass s = (s', .proceed)) :
    ∃ n, 4 ≤ n ∧ n < s.buf.length ∧ (n : Int) = s'.len + 2 ∧ s'.buf = s.buf.drop n ∧ s'.miss = 0 ∧
      s'.kind = .chart ∧ s'.cause = .none ∧
      s'.events = s.events ++ [.frameChart (s.buf.take n), .rxDrop n] ∧
      s' = { s with
              buf := s'.buf, miss := s'.miss, kind := s'.kind, cause := s'.cause, phase := .complete,
              eng := s'.eng, len := s'.len, events := s'.events } := by
  rcases deliverPass_cases s _ rfl with ⟨-, hp⟩ | ⟨-, hp⟩ | ⟨hk, hp⟩ | ⟨-, hp⟩
  · rw [hp] at h
    rcases missUpdate_cases .unknown (classifyBuffer s) with ⟨h0, -⟩ | ⟨-, -, hm⟩ | ⟨-, -, hm⟩
    · exact absurd rfl h0
    · rw [hm] at h; cases h
    · rw [hm] at h; cases h
  · rw [hp] at h; cases h
  · rw [hp] at h
    have hlen : 2 ≤ (classifyBuffer s).len ∧ (classifyBuffer s).cause = .none := by
      rcases classify_cases s.table s.buf s.eng s.len with ⟨hu, -⟩ | ⟨hb, -⟩ | ⟨-, hc, -, -, -, h2, -⟩
      · rw [show (classifyBuffer s).kind = _ from hu] at hk; cases hk
      · rw [show (classifyBuffer s).kind = _ from hb] at hk; cases hk
      · exact ⟨h2, hc⟩
    rcases dispatchChart_cases { classifyBuffer s with miss := 0, phase := .complete } with
      ⟨-, hd⟩ | ⟨-, -, hd⟩ | ⟨hle, hne, hd⟩
    · rw [hd] at h; cases h
    · rw [hd] at h; cases h
    · rw [hd] at h
      obtain rfl := (Prod.mk.inj h).1
      have hb : (classifyBuffer s).buf = s.buf := rfl
      simp only [hb] at hle hne
      have hlt : ((classifyBuffer s).len + 2).toNat < s.buf.length := by
        by_contra hc
        exact hne (List.drop_eq_nil_of_le (by omega))
      refine ⟨((classifyBuffer s).len + 2).toNat, by omega, hlt, by simp only []; omega, rfl, rfl, hk, hlen.2,
        ?_, rfl⟩
      simp only [hb, List.append_assoc]
      rfl
  · rw [hp] at h; cases h

/-- The loop's pass limit is never reached: any two limits above the buffer's length agree. -/
theorem deliverLoop_fuel (m n : Nat) (s : State) (hm : s.buf.length < m) (hn : s.buf.length < n) :
    deliverLoop m s = deliverLoop n s := by
  induction m generalizing n s with
  | zero => omega
  | succ m ih =>
    cases n with
    | zero => omega
    | succ n =>
      unfold deliverLoop
      rcases hp : deliverPass s with ⟨s', fl⟩
      cases fl with
      | stop => rfl
      | proceed =>
        obtain ⟨k, hk, hlt, -, hb, -⟩ := deliverPass_proceed s s' hp
        have : s'.buf.length < s.buf.length := by rw [hb, List.length_drop]; omega
        exact ih n s' (by omega) (by omega)

/-- The loop without its limit: one pass, and again on what is left. -/
theorem deliverLoop_unfold (s : State) :
    deliverLoop (s.buf.length + 1) s =
      match deliverPass s with
      | (s', .stop) => s'
      | (s', .proceed) => deliverLoop (s'.buf.length + 1) s' := by
  conv => lhs; unfold deliverLoop
  rcases hp : deliverPass s with ⟨s', fl⟩
  cases fl with
  | stop => rfl
  | proceed =>
    obtain ⟨k, hk, hlt, -, hb, -⟩ := deliverPass_proceed s s' hp
    have : s'.buf.length < s.buf.length := by rw [hb, List.length_drop]; omega
    exact deliverLoop_fuel _ _ s' (by omega) (by omega)

/-- Induction along the loop: what a stopping pass establishes, and a going-on pass carries over, the loop
establishes. -/
theorem deliverLoop_induct (P : State → State → Prop)
    (hstop : ∀ s s', deliverPass s = (s', .stop) → P s s')
    (hgo : ∀ s s' t, deliverPass s = (s', .proceed) → P s' t → P s t) (s : State) :
    P s (deliverLoop (s.buf.length + 1) s) := by
  generalize hn : s.buf.length = n
  induction n using Nat.strong_induction_on generalizing s with
  | _ n ih =>
    subst hn
    rw [deliverLoop_unfold]
    rcases hp : deliverPass s with ⟨s', fl⟩
    cases fl with
    | stop => exact hstop s s' hp
    | proceed =>
      obtain ⟨k, hk, hlt, -, hb, -⟩ := deliverPass_proceed s s' hp
      have : s'.buf.length < s.buf.length := by rw [hb, List.length_drop]; omega
      exact hgo s s' _ hp (ih _ this s' rfl)

/-- `DELIVER` is refused whole, or appends the batch and runs the loop. -/
theorem deliver_cases (D : List Byte) (s : State) :
    (exceedsCap s.bufCap s.buf.length D.length = true ∧
      deliver D s = { s with fault := setOverflow s.fault, result := .refused }) ∨
    (exceedsCap s.bufCap s.buf.length D.length = false ∧
      deliver D s = deliverLoop ((s.buf ++ D).length + 1) { s with buf := s.buf ++ D }) := by
  unfold deliver
  rcases appendBatch_cases D s with ⟨h, ha⟩ | ⟨h, ha⟩
  · exact .inr ⟨h, by rw [ha]⟩
  · exact .inl ⟨h, by rw [ha]⟩

/-! ### The command port -/

/-- A rejected request either is a reserved code at the port, which sets `FAULT.ILLCMD`, or is refused. -/
theorem rejectRequest_cases (r : Request) (why : Reject) (s : State) :
    (∃ c op c', r = .port c op ∧ why = .reservedCode c' ∧
      rejectRequest r why s = .next { s with fault := setIllCmd s.fault }) ∨
    rejectRequest r why s = .refused (.undecodable why) := by
  cases r <;> cases why <;> simp [rejectRequest]

end Sys2Proof.Machine
end

