-- ==== Sys2Proof/Laws/PerInstr.lean ====
section
/-! SUPPORT. Statements about every operation, one lemma per constructor of `Instr`: the encoder gives each the
code of its row of spec/opcode_table.json, or wire bytes that match the row's mask and match. -/

namespace Sys2Proof.Laws.EncodeCode

/-- What the row of spec/opcode_table.json fixes: an 8-bit code (mask `0xFF`), or the match and the mask of the
first six wire bytes. -/
inductive Row where
  | code (match8 : Byte)
  | wire (match48 mask48 : List Byte)

/-- The row of each operation. -/
def row : Instr → Row
  | .reset => .code 0x00
  | .deliver _ => .code 0x01
  | .tblgen => .code 0x10
  | .crcstep _ _ => .code 0x11
  | .crcpair _ _ => .code 0x12
  | .ckvalid _ => .code 0x13
  | .flen _ => .code 0x20
  | .minlen _ => .code 0x21
  | .sigbi _ => .code 0x22
  | .sigch _ => .code 0x23
  | .sigcd _ => .code 0x24
  | .trailer _ => .code 0x25
  | .classify _ => .code 0x26
  | .append _ => .code 0x30
  | .trunc _ => .code 0x31
  | .clear => .code 0x32
  | .missupd _ => .code 0x40
  | .dispatch _ => .code 0x41
  | .evFrameBi _ => .code 0x80
  | .evFrameChart _ => .code 0x81
  | .evFrameCd => .code 0x82
  | .evRxDrop _ => .code 0x90
  | .evRxClear => .code 0x91
  | .frameBi _ => .wire [0x00, 0x24, 0x24, 0xFF, 0xFE, 0x00] [0xFF, 0xFF, 0xFF, 0xFF, 0xFF, 0x00]
  | .frameCh _ _ => .wire [0x24, 0x24, 0x00, 0x00, 0xFF, 0x01] [0xFF, 0xFF, 0x00, 0x00, 0xFF, 0xFF]
  | .frameCd _ => .wire [0x24, 0x24, 0x0A, 0x00, 0xFF, 0x02] [0xFF, 0xFF, 0xFF, 0xFF, 0xFF, 0xFF]

/-- The encoder's request fits the row: the code, at the port for a command and by name for the rest; or wire
bytes whose masked first bytes, as many as are there, are the match. -/
def Fits : Request → Row → Prop
  | .port c _, .code m => c = m ∧ isCommandCode c = true
  | .trace c _, .code m => c = m ∧ isCommandCode c = false
  | .push bytes, .wire m k =>
    5 ≤ bytes.length ∧ List.zipWith (· &&& ·) (bytes.take 6) k = m.take (bytes.take 6).length
  | _, _ => False

/-- The encoder's request fits the operation's row. -/
def Statement (i : Instr) : Prop := Fits (encode i) (row i)

theorem reset : Statement .reset := ⟨rfl, rfl⟩
theorem deliver (batch : List Byte) : Statement (.deliver batch) := ⟨rfl, rfl⟩
theorem tblgen : Statement .tblgen := ⟨rfl, rfl⟩
theorem crcstep (crc : Word16) (byte : Byte) : Statement (.crcstep crc byte) := ⟨rfl, rfl⟩
theorem crcpair (bytes : List Byte) (F : Int) : Statement (.crcpair bytes F) := ⟨rfl, rfl⟩
theorem ckvalid (bytes : List Byte) : Statement (.ckvalid bytes) := ⟨rfl, rfl⟩
theorem flen (bytes : List Byte) : Statement (.flen bytes) := ⟨rfl, rfl⟩
theorem minlen (k : Kind) : Statement (.minlen k) := ⟨rfl, rfl⟩
theorem sigbi (bytes : List Byte) : Statement (.sigbi bytes) := ⟨rfl, rfl⟩
theorem sigch (bytes : List Byte) : Statement (.sigch bytes) := ⟨rfl, rfl⟩
theorem sigcd (bytes : List Byte) : Statement (.sigcd bytes) := ⟨rfl, rfl⟩
theorem trailer (bytes : List Byte) : Statement (.trailer bytes) := ⟨rfl, rfl⟩
theorem classify (bytes : List Byte) : Statement (.classify bytes) := ⟨rfl, rfl⟩
theorem append (batch : List Byte) : Statement (.append batch) := ⟨rfl, rfl⟩
theorem trunc (count : Nat) : Statement (.trunc count) := ⟨rfl, rfl⟩
theorem clear : Statement .clear := ⟨rfl, rfl⟩
theorem missupd (k : Kind) : Statement (.missupd k) := ⟨rfl, rfl⟩
theorem dispatch (k : FrameKind) : Statement (.dispatch k) := ⟨rfl, rfl⟩
theorem evFrameBi (bytes : List Byte) : Statement (.evFrameBi bytes) := ⟨rfl, rfl⟩
theorem evFrameChart (bytes : List Byte) : Statement (.evFrameChart bytes) := ⟨rfl, rfl⟩
theorem evFrameCd : Statement .evFrameCd := ⟨rfl, rfl⟩
theorem evRxDrop (count : Nat) : Statement (.evRxDrop count) := ⟨rfl, rfl⟩
theorem evRxClear : Statement .evRxClear := ⟨rfl, rfl⟩

theorem frameBi (tail : List Byte) : Statement (.frameBi tail) := by
  cases tail with
  | nil => exact ⟨by decide, by decide⟩
  | cons b tail =>
    refine ⟨by simp [sigBiBytes], ?_⟩
    simp [sigBiBytes]

theorem frameCh (L : Word16) (rest : List Byte) : Statement (.frameCh L rest) := by
  refine ⟨by simp [chartHeader, le16Bytes], ?_⟩
  simp [chartHeader, le16Bytes]

theorem frameCd (rest : List Byte) : Statement (.frameCd rest) := by
  refine ⟨by simp [sigCdBytes], ?_⟩
  simp [sigCdBytes]

end Sys2Proof.Laws.EncodeCode
end

