-- ==== Sys2Proof/Tests/Slice0.lean ====
section
/-! SUPPORT. The model's own tests. Expected values are the spec's: 40_checksum_engine.md R70, R71, the vectors V1
to V22 of 95_test_vectors.md, and the codes and signatures of 30_encoding.md. Last, for each statement with
hypotheses, values that meet them. -/

-- One theorem at a time: the kernel evaluations below, run side by side, need several times the memory.
set_option Elab.async false

namespace Sys2Proof.Tests

open Sys2Proof Sys2Proof.Machine

/-! ### Ill-formed terms the checks refuse -/

theorem test_wf_refuses_short_flen : (Instr.flen [0x24, 0x24, 0x0E]).wf = false := by decide
theorem test_wf_refuses_short_ckvalid : (Instr.ckvalid []).wf = false := by decide
theorem test_wf_refuses_crcpair_beyond_bytes : (Instr.crcpair [0x24] 2).wf = false := by decide
theorem test_wf_refuses_crcpair_low : (Instr.crcpair [0x24] (-3)).wf = false := by decide
theorem test_wf_refuses_crcpair_high : (Instr.crcpair [0x24] 65534).wf = false := by decide
theorem test_wf_refuses_low_rxdrop : (Instr.evRxDrop 3).wf = false := by decide
theorem test_wf_refuses_wide_rxdrop : (Instr.evRxDrop 65536).wf = false := by decide

/-! ### Decoding: words and bytes written out from the spec's codes (R50, R52) and signatures (R53) -/

theorem test_decode_reset : decodeTableWord 8 0b00000000 = some .reset := by decide
theorem test_decode_deliver : decode (.port 0x01 [0x24, 0x24]) = .ok (.deliver [0x24, 0x24]) := by rfl
theorem test_decode_tblgen : decodeTableWord 8 0b00010000 = some .tblgen := by decide
theorem test_decode_crcstep : decode (.trace 0b00010001 [0xFF, 0x0F, 0x24]) = .ok (.crcstep 0x0FFF 0x24) := by rfl
theorem test_decode_crcpair :
    decode (.trace 0b00010010 [0x04, 0x00, 0x31, 0x32]) = .ok (.crcpair [0x31, 0x32] 2) := by rfl
theorem test_decode_ckvalid : decode (.trace 0b00010011 [1, 2, 3, 4]) = .ok (.ckvalid [1, 2, 3, 4]) := by rfl
theorem test_decode_flen : decode (.trace 0b00100000 [1, 2, 3, 4]) = .ok (.flen [1, 2, 3, 4]) := by rfl
theorem test_decode_minlen : decode (.trace 0b00100001 [2]) = .ok (.minlen .chart) := by rfl
theorem test_decode_sigbi : decodeTableWord 8 0b00100010 = some (.sigbi []) := by decide
theorem test_decode_sigch : decodeTableWord 8 0b00100011 = some (.sigch []) := by decide
theorem test_decode_sigcd : decodeTableWord 8 0b00100100 = some (.sigcd []) := by decide
theorem test_decode_trailer : decodeTableWord 8 0b00100101 = some (.trailer []) := by decide
theorem test_decode_classify : decodeTableWord 8 0b00100110 = some (.classify []) := by decide
theorem test_decode_append : decode (.trace 0b00110000 [0x0E]) = .ok (.append [0x0E]) := by rfl
theorem test_decode_trunc : decode (.trace 0b00110001 [0x0E, 0x01]) = .ok (.trunc 270) := by rfl
/-- A count beyond 16 bits takes a third byte. -/
theorem test_decode_wide_trunc : decode (.trace 0b00110001 [0x00, 0x00, 0x01]) = .ok (.trunc 65536) ∧
    encode (.trunc 65536) = .trace 0x31 [0x00, 0x00, 0x01] := ⟨by rfl, by decide⟩
theorem test_decode_clear : decodeTableWord 8 0b00110010 = some .clear := by decide
theorem test_decode_missupd : decode (.trace 0b01000000 [3]) = .ok (.missupd .chartDisplay) := by rfl
theorem test_decode_dispatch : decode (.trace 0b01000001 [1]) = .ok (.dispatch .chart) := by rfl
theorem test_decode_frame_bi_event : decode (.trace 0b10000000 [7]) = .ok (.evFrameBi [7]) := by rfl
theorem test_decode_frame_chart_event : decode (.trace 0b10000001 [7]) = .ok (.evFrameChart [7]) := by rfl
theorem test_decode_frame_cd_event : decodeTableWord 8 0b10000010 = some .evFrameCd := by decide
theorem test_decode_rxdrop : decode (.trace 0b10010000 [0x0A, 0x00]) = .ok (.evRxDrop 14) := by rfl
theorem test_decode_refuses_wide_rxdrop :
    decode (.trace 0b10010000 [0xFC, 0xFF]) = .error (.countOutOfRange 0x90) := by rfl
theorem test_decode_rxclear : decodeTableWord 8 0b10010001 = some .evRxClear := by decide
theorem test_decode_wire_bi : decodeTableWord 48 0x002424FFFE55 = some (.frameBi [0x55]) := by decide
theorem test_decode_wire_ch : decodeTableWord 48 0x24240E01FF01 = some (.frameCh 0x010E []) := by decide
theorem test_decode_wire_cd : decodeTableWord 48 0x24240A00FF02 = some (.frameCd []) := by decide
theorem test_decode_refuses_other_type : decodeTableWord 48 0x24240B00FF02 = none := by decide
theorem test_decode_refuses_unit_code_at_port :
    decode (.port 0x26 []) = .error (.reservedCode 0x26) := by rfl
theorem test_decode_refuses_reset_operand : decode (.port 0x00 [0]) = .error (.trailingOperand 0x00) := by rfl
theorem test_no_code_twice : (opTable.map (·.code)).Nodup := by decide

/-! ### The table: R70's worked example, V1, and the listing of R71 -/

theorem test_table_one : builtTable.read 1 = 0x1189 := by decide

/-- The listing of R71, rows 0x00 to 0x78. -/
def listingLow : List Word16 :=
  [0x0000, 0x1189, 0x2312, 0x329B, 0x4624, 0x57AD, 0x6536, 0x74BF,
   0x8C48, 0x9DC1, 0xAF5A, 0xBED3, 0xCA6C, 0xDBE5, 0xE97E, 0xF8F7,
   0x1081, 0x0108, 0x3393, 0x221A, 0x56A5, 0x472C, 0x75B7, 0x643E,
   0x9CC9, 0x8D40, 0xBFDB, 0xAE52, 0xDAED, 0xCB64, 0xF9FF, 0xE876,
   0x2102, 0x308B, 0x0210, 0x1399, 0x6726, 0x76AF, 0x4434, 0x55BD,
   0xAD4A, 0xBCC3, 0x8E58, 0x9FD1, 0xEB6E, 0xFAE7, 0xC87C, 0xD9F5,
   0x3183, 0x200A, 0x1291, 0x0318, 0x77A7, 0x662E, 0x54B5, 0x453C,
   0xBDCB, 0xAC42, 0x9ED9, 0x8F50, 0xFBEF, 0xEA66, 0xD8FD, 0xC974,
   0x4204, 0x538D, 0x6116, 0x709F, 0x0420, 0x15A9, 0x2732, 0x36BB,
   0xCE4C, 0xDFC5, 0xED5E, 0xFCD7, 0x8868, 0x99E1, 0xAB7A, 0xBAF3,
   0x5285, 0x430C, 0x7197, 0x601E, 0x14A1, 0x0528, 0x37B3, 0x263A,
   0xDECD, 0xCF44, 0xFDDF, 0xEC56, 0x98E9, 0x8960, 0xBBFB, 0xAA72,
   0x6306, 0x728F, 0x4014, 0x519D, 0x2522, 0x34AB, 0x0630, 0x17B9,
   0xEF4E, 0xFEC7, 0xCC5C, 0xDDD5, 0xA96A, 0xB8E3, 0x8A78, 0x9BF1,
   0x7387, 0x620E, 0x5095, 0x411C, 0x35A3, 0x242A, 0x16B1, 0x0738,
   0xFFCF, 0xEE46, 0xDCDD, 0xCD54, 0xB9EB, 0xA862, 0x9AF9, 0x8B70]

/-- The listing of R71, rows 0x80 to 0xF8. -/
def listingHigh : List Word16 :=
  [0x8408, 0x9581, 0xA71A, 0xB693, 0xC22C, 0xD3A5, 0xE13E, 0xF0B7,
   0x0840, 0x19C9, 0x2B52, 0x3ADB, 0x4E64, 0x5FED, 0x6D76, 0x7CFF,
   0x9489, 0x8500, 0xB79B, 0xA612, 0xD2AD, 0xC324, 0xF1BF, 0xE036,
   0x18C1, 0x0948, 0x3BD3, 0x2A5A, 0x5EE5, 0x4F6C, 0x7DF7, 0x6C7E,
   0xA50A, 0xB483, 0x8618, 0x9791, 0xE32E, 0xF2A7, 0xC03C, 0xD1B5,
   0x2942, 0x38CB, 0x0A50, 0x1BD9, 0x6F66, 0x7EEF, 0x4C74, 0x5DFD,
   0xB58B, 0xA402, 0x9699, 0x8710, 0xF3AF, 0xE226, 0xD0BD, 0xC134,
   0x39C3, 0x284A, 0x1AD1, 0x0B58, 0x7FE7, 0x6E6E, 0x5CF5, 0x4D7C,
   0xC60C, 0xD785, 0xE51E, 0xF497, 0x8028, 0x91A1, 0xA33A, 0xB2B3,
   0x4A44, 0x5BCD, 0x6956, 0x78DF, 0x0C60, 0x1DE9, 0x2F72, 0x3EFB,
   0xD68D, 0xC704, 0xF59F, 0xE416, 0x90A9, 0x8120, 0xB3BB, 0xA232,
   0x5AC5, 0x4B4C, 0x79D7, 0x685E, 0x1CE1, 0x0D68, 0x3FF3, 0x2E7A,
   0xE70E, 0xF687, 0xC41C, 0xD595, 0xA12A, 0xB0A3, 0x8238, 0x93B1,
   0x6B46, 0x7ACF, 0x4854, 0x59DD, 0x2D62, 0x3CEB, 0x0E70, 0x1FF9,
   0xF78F, 0xE606, 0xD49D, 0xC514, 0xB1AB, 0xA022, 0x92B9, 0x8330,
   0x7BC7, 0x6A4E, 0x58D5, 0x495C, 0x3DE3, 0x2C6A, 0x1EF1, 0x0F78]

theorem test_table_listing_low : builtTable.entries.take 128 = listingLow := by decide +kernel
theorem test_table_listing_high : builtTable.entries.drop 128 = listingHigh := by decide +kernel

/-! ### One step on a small state -/

/-- What an observer reads after a command (95_test_vectors.md, rule R60). -/
structure Seen where
  buf : List Byte
  miss : Nat
  kind : Kind
  cause : Cause
  result : Result
  events : List Event
deriving DecidableEq, Repr

def seen : Host.Outcome State Fault Refusal → Option Seen
  | .next s => some ⟨s.buf, s.miss.toNat, s.kind, s.cause, s.result, s.events⟩
  | .fault _ => none
  | .refused _ => none

/-- What a unit operation returned. -/
def returned : Host.Outcome State Fault Refusal → Option OpResult
  | .next s => some s.value
  | .fault _ => none
  | .refused _ => none

/-- A block that was reset and then holds these bytes and misses, with one request presented. -/
def blockWith (buf : List Byte) (miss : BitVec 2) (r : Request) : State :=
  { State.reset with buf := buf, miss := miss, pending := [r] }

def chart14 : List Byte :=
  [0x24, 0x24, 0x0E, 0x00, 0xFF, 0x01, 0x64, 0x00, 0xC8, 0x00, 0x8C, 0x9E, 0x0D, 0x0A]

def display10 : List Byte := [0x24, 0x24, 0x0A, 0x00, 0xFF, 0x02, 0xBE, 0x2F, 0x0D, 0x0A]

def battery9 : List Byte := [0x00, 0x24, 0x24, 0xFF, 0xFE, 0x41, 0x42, 0x0D, 0x0A]

/-- V4. -/
theorem test_deliver_chart : seen (step (blockWith [] 0 (.port 0x01 chart14))) =
    some ⟨[], 0, .chart, .none, .decoded, [.frameChart chart14, .rxDrop 14]⟩ := by decide +kernel

/-- V17: two frames in one buffer, the first without a trailer of its own. -/
theorem test_deliver_coalesced :
    seen (step (blockWith [] 0 (.port 0x01 (chart14.take 12 ++ [0x55, 0x55] ++ display10)))) =
    some ⟨[], 0, .chartDisplay, .none, .decoded,
      [.frameChart (chart14.take 12 ++ [0x55, 0x55]), .rxDrop 14, .frameCd]⟩ := by decide +kernel

/-- V10, third delivery. -/
theorem test_deliver_third_miss : seen (step (blockWith [0x99, 1, 2, 3, 4, 5, 6] 2 (.port 0x01 [0xAA]))) =
    some ⟨[], 0, .unknown, .unrecognizedSignature, .desync, [.rxClear]⟩ := by decide +kernel

/-- V13, `n = L - 1`. -/
theorem test_deliver_partial : seen (step (blockWith [] 0 (.port 0x01
      [0x24, 0x24, 0x0C, 0x00, 0xFF, 0x01, 0x00, 0x08, 0x1A, 0x0D, 0x0A]))) =
    some ⟨[], 0, .chart, .partialChartFrame, .partialDiscard, []⟩ := by decide +kernel

/-- V21: capacity 16, nine bytes held, eight delivered. -/
theorem test_deliver_refused : seen (step { blockWith (chart14.take 9) 1 (.port 0x01
      [0x00, 0x8C, 0x9E, 0x0D, 0x0A, 0x00, 0x00, 0x00]) with bufCap := some 16 }) =
    some ⟨chart14.take 9, 1, .unknown, .none, .refused, []⟩ := by decide +kernel

/-- V22: an operation's code at the port. -/
theorem test_reserved_code : step (blockWith [0x24, 0x24, 0x0E] 1 (.port 0x26 [])) =
    .next { State.reset with buf := [0x24, 0x24, 0x0E], miss := 1, fault := 0b10 } := by rfl

/-- V20. -/
theorem test_reset : seen (step (blockWith [0x24, 0x24, 0x0E, 0x00] 2 (.port 0x00 []))) =
    some ⟨[], 0, .unknown, .none, .idle, []⟩ := by decide

theorem test_tblgen : (match exec .tblgen State.reset with
    | .next s => s.table.read 0xFF == 0x0F78
    | _ => false) = true := by decide +kernel

/-- V2, last row. -/
theorem test_crcstep : returned (exec (.crcstep 0x0F19 0x9E) State.reset) = some (.crc 0xF0B8) := by
  decide +kernel

/-- V3. -/
theorem test_crcpair_check_string :
    returned (exec (.crcpair [0x31, 0x32, 0x33, 0x34, 0x35, 0x36, 0x37, 0x38, 0x39] 9) State.reset) =
    some (.pair 0x6F91 0xE537) := by decide +kernel

/-- V6, `F = 3`, with `ACC`. -/
theorem test_crcpair_three : (match exec (.crcpair (chart14.take 6) 3) State.reset with
    | .next s => s.value == .pair 0xF444 0x975E && s.eng.acc == 0xFFDB68A1
    | _ => false) = true := by decide +kernel

/-- V7: a flipped checksum byte. -/
theorem test_ckvalid_flipped : returned (exec (.ckvalid (chart14.set 10 0x8D)) State.reset) =
    some (.bool false) := by decide +kernel

theorem test_ckvalid : returned (exec (.ckvalid chart14) State.reset) = some (.bool true) := by decide +kernel

/-- R80: a length field of 1 gives -1. -/
theorem test_flen_negative : returned (exec (.flen [0x24, 0x24, 0x01, 0x00]) State.reset) =
    some (.length (-1)) := by decide

theorem test_minlen : returned (exec (.minlen .batteryInfo) State.reset) = some (.count 9) := by decide

/-- R82's examples. -/
theorem test_sigbi : returned (exec (.sigbi (battery9.take 6)) State.reset) = some (.bool true) ∧
    returned (exec (.sigbi (battery9.take 4)) State.reset) = some (.bool false) := by decide

/-- R83's examples. -/
theorem test_sigch : returned (exec (.sigch (chart14.take 6)) State.reset) = some (.bool true) ∧
    returned (exec (.sigch (display10.take 6)) State.reset) = some (.bool false) := by decide

/-- R84's example with another length. -/
theorem test_sigcd : returned (exec (.sigcd display10) State.reset) = some (.bool true) ∧
    returned (exec (.sigcd (display10.set 2 0x0B)) State.reset) = some (.bool false) := by decide

theorem test_trailer : returned (exec (.trailer [0x0D, 0x0A]) State.reset) = some (.bool true) ∧
    returned (exec (.trailer [0x0D, 0x0A, 0x55]) State.reset) = some (.bool false) := by decide

/-- V15, eighth row: the length field promises more than is there. -/
theorem test_classify_short :
    returned (exec (.classify (chart14.take 8 ++ [0x0D, 0x0A])) State.reset) =
    some (.verdict .unknown .incompleteFrame) := by decide +kernel

/-- V14: the smallest valid Chart frame. -/
theorem test_classify_smallest_chart :
    returned (exec (.classify [0x24, 0x24, 0x0A, 0x00, 0xFF, 0x01, 0x25, 0x1D, 0x0D, 0x0A]) State.reset) =
    some (.verdict .chart .none) := by decide +kernel

/-- V19. -/
theorem test_append : seen (exec (.append [0x0E, 0x00, 0xFF]) (blockWith [0x24, 0x24] 0 (.port 0 []))) =
    some ⟨[0x24, 0x24, 0x0E, 0x00, 0xFF], 0, .unknown, .none, .idle, []⟩ := by decide

/-- V19. -/
theorem test_trunc : seen (exec (.trunc 14) (blockWith (chart14 ++ [0x24, 0x24, 0x0A]) 0 (.port 0 []))) =
    some ⟨[0x24, 0x24, 0x0A], 0, .unknown, .none, .idle, []⟩ := by decide

/-- V19. -/
theorem test_clear : seen (exec .clear (blockWith [0x99, 1, 2] 1 (.port 0 []))) =
    some ⟨[], 1, .unknown, .none, .idle, []⟩ := by decide

/-- R98's worked example. -/
theorem test_missupd : seen (exec (.missupd .unknown) (blockWith [0x99, 1, 0xAA] 2 (.port 0 []))) =
    some ⟨[], 0, .unknown, .none, .desync, [.rxClear]⟩ := by decide

/-- R102's worked example, one dispatch. -/
theorem test_dispatch_chart :
    seen (exec (.dispatch .chart) { blockWith (chart14 ++ display10) 0 (.port 0 []) with len := 12 }) =
    some ⟨display10, 0, .unknown, .none, .idle, [.frameChart chart14, .rxDrop 14]⟩ := by decide

/-- R100's worked example. -/
theorem test_dispatch_battery : seen (exec (.dispatch .batteryInfo) (blockWith battery9 0 (.port 0 []))) =
    some ⟨[], 0, .unknown, .none, .decoded, [.frameBi battery9]⟩ := by decide

theorem test_events : seen (exec (.evRxDrop 14) { State.reset with events := [.frameChart []] }) =
    some ⟨[], 0, .unknown, .none, .idle, [.frameChart [], .rxDrop 14]⟩ := by decide

/-- V8, pushed by the transport. -/
theorem test_wire_battery : seen (step (blockWith [] 0 (.push battery9))) =
    some ⟨[], 0, .batteryInfo, .none, .decoded, [.frameBi battery9]⟩ := by decide

/-- V5, pushed by the transport. -/
theorem test_wire_display : seen (step (blockWith [] 0 (.push display10))) =
    some ⟨[], 0, .chartDisplay, .none, .decoded, [.frameCd]⟩ := by decide +kernel

/-- Every table word of a code runs as the first operation after reset. -/
theorem test_first_after_reset :
    [0x00, 0x01, 0x10, 0x11, 0x12, 0x13, 0x20, 0x21, 0x22, 0x23, 0x24, 0x25, 0x26, 0x30, 0x31, 0x32, 0x40, 0x41,
      0x80, 0x81, 0x82, 0x90, 0x91].all (fun w => (seen (step (State.reset.withFetchWord 8 w))).isSome) = true ∧
    [0x002424FFFE00, 0x24240000FF01, 0x24240A00FF02].all
      (fun w => (seen (step (State.reset.withFetchWord 48 w))).isSome) = true := by decide +kernel

/-! ### The hypotheses of the statements can be met -/

theorem witness_StepRunsTheDecodedOperation :
    (blockWith [] 0 (.port 0x01 [0x24])).pending = [.port 0x01 [0x24]] ∧
    decode (.port 0x01 [0x24]) = .ok (.deliver [0x24]) ∧ State.reset.pending = [] := ⟨rfl, rfl, rfl⟩

theorem witness_EncodeThenDecodeIsIdentity :
    (Instr.crcpair [0x31, 0x32] 2).wf = true ∧ (Instr.trunc 65536).wf = true ∧ (Instr.evRxDrop 4).wf = true ∧
    (Instr.evRxDrop 65535).wf = true := by decide

theorem witness_DecodeThenEncodeIsIdentity :
    decodeOp 0x31 [0xFF, 0xFF] = .ok (.trunc 65535) ∧ decodeFrame display10 = .ok (.frameCd (display10.drop 6)) :=
  ⟨rfl, rfl⟩

theorem witness_ReservedPortCodeOnlySetsIllCmd :
    (blockWith [] 0 (.port 0x02 [1])).pending = [.port 0x02 [1]] ∧ (0x02 : Byte) ≠ 0x00 ∧ (0x02 : Byte) ≠ 0x01 :=
  ⟨rfl, by decide, by decide⟩

theorem witness_SignaturesAreMatchAndMask : (battery9.take 4).length < 5 ∧ (chart14.take 5).length < 6 := by decide

theorem witness_TableIsLinearWithDistinctHighBytes : ∃ t, exec .tblgen State.reset = .next t := ⟨_, rfl⟩

theorem witness_table_is_built : State.reset.table = builtTable := rfl

theorem witness_CrcpairResult : ((-2 : Int) ≤ (chart14.length : Int)) ∧ ((14 : Int) ≤ (chart14.length : Int)) := by
  decide

theorem witness_ResidueExactlyWhenChecksumMatches :
    State.reset.table = builtTable ∧ (3 : Int) ≤ 12 ∧ (12 : Int) ≤ (chart14.length : Int) := ⟨rfl, by decide, by decide⟩

theorem witness_checksum_valid_chart : ChecksumValid builtTable chart14 := by decide +kernel

theorem witness_ChecksumTestCatchesAnyOneByte :
    ((11 : Nat) : Int) < coveredLength chart14 ∧ (11 : Nat) ≠ 2 ∧ (11 : Nat) ≠ 3 ∧ chart14[11]? ≠ some 0x9F := by
  decide

theorem witness_CkvalidResult_bounds :
    4 ≤ chart14.length ∧ coveredLength [0x24, 0x24, 0x03, 0x00] < 2 ∧
    (([0x24, 0x24, 0x07, 0x00] : List Byte).length : Int) < coveredLength [0x24, 0x24, 0x07, 0x00] := by decide

theorem witness_OneChartDisplayFrame : display10.length = 10 := by decide

theorem witness_ChartVerdictHasLengthTenOrMore :
    ∃ t, exec (.classify chart14) State.reset = .next t ∧ t.value = .verdict .chart .none :=
  ⟨_, rfl, by decide +kernel⟩

theorem witness_AppendResult : Fits State.reset chart14 ∧ Fits { State.reset with bufCap := some 14 } chart14 :=
  ⟨trivial, by decide⟩

theorem witness_DeliverBeyondCapacity :
    State.bufCap { State.reset with bufCap := some 13 } = some 13 ∧ 13 < State.reset.buf.length + chart14.length ∧
    State.reset.bufCap = none := ⟨rfl, by decide, rfl⟩

theorem witness_TruncResult :
    (0 : Nat) ≤ (blockWith chart14 0 (.port 0 [])).buf.length ∧ 14 ≤ (blockWith chart14 0 (.port 0 [])).buf.length :=
  by decide

theorem witness_AccessOutsideTheBytesStops :
    (chart14.take 3).length < 4 ∧ (chart14.length : Int) < 15 ∧ State.reset.buf.length < 1 := by decide

theorem witness_MissupdResult :
    Kind.chart ≠ .unknown ∧ (0 : BitVec 2).toNat < 2 ∧ (1 : BitVec 2).toNat < 2 ∧ (2 : BitVec 2).toNat = 2 := by
  decide

theorem witness_DispatchChartResult :
    State.len { blockWith chart14 0 (.port 0 []) with len := 12 } = (14 : Nat) - 2 ∧ 4 ≤ 14 ∧ 14 ≤ 65535 ∧
    (chart14.take 13).length < 14 ∧ chart14.length = 14 ∧ 14 < (chart14 ++ [0x24]).length := by decide

theorem witness_EventRowsAppendTheirEvent : 4 ≤ 14 ∧ 14 ≤ 65535 := by decide

theorem witness_RxDropOutsideItsRangeStops : (3 < 4 ∨ 65535 < 3) ∧ (65536 < 4 ∨ 65535 < 65536) ∧
    (State.len { blockWith [1, 2, 3] 0 (.port 0 []) with len := 1 }) + 2 < 4 ∧
    (State.len { blockWith [1, 2, 3] 0 (.port 0 []) with len := 1 }) + 2 ≤ (([1, 2, 3] : List Byte).length : Int) := by
  decide

theorem witness_DeliverMissWaitsOrRecovers :
    (State.miss (blockWith [0x99] 2 (.port 0 []))).toNat ≤ 2 ∧ Fits (blockWith [0x99] 2 (.port 0 [])) [0xAA] ∧
    IsUnknown builtTable ([0x99] ++ [0xAA]) := ⟨by decide, trivial, by decide⟩

theorem witness_DeliverCompletesBatteryInfo :
    Fits State.reset battery9 ∧ IsBatteryInfo (State.reset.buf ++ battery9) := ⟨trivial, by decide⟩

theorem witness_DeliverCompletesChartDisplay :
    Fits State.reset display10 ∧ IsChartDisplay State.reset.table (State.reset.buf ++ display10) :=
  ⟨trivial, by decide +kernel⟩

/-- The three clauses: V13 (`n = L - 1`), V4 (`n = L`), V17 (`n > L`). -/
theorem witness_DeliverConsumesChart :
    (IsChart builtTable [0x24, 0x24, 0x0C, 0x00, 0xFF, 0x01, 0x00, 0x08, 0x1A, 0x0D, 0x0A] ∧
      declaredLength [0x24, 0x24, 0x0C, 0x00, 0xFF, 0x01, 0x00, 0x08, 0x1A, 0x0D, 0x0A] = 12) ∧
    (IsChart builtTable chart14 ∧ chart14.length = declaredLength chart14) ∧
    (IsChart builtTable (chart14 ++ [0x0D, 0x0A]) ∧
      declaredLength (chart14 ++ [0x0D, 0x0A]) < (chart14 ++ [0x0D, 0x0A]).length) := by decide +kernel

theorem witness_DeliverEndings : State.reset.miss.toNat ≤ 2 ∧ Fits State.reset chart14 ∧
    ¬ Fits { State.reset with bufCap := some 13 } chart14 := ⟨by decide, trivial, by simp [Fits, chart14, State.reset]⟩

theorem witness_DeliverReadsOnlyBufMissTable :
    State.reset.buf = State.buf { State.reset with kind := .chart } ∧
    State.reset.miss = State.miss { State.reset with kind := .chart } ∧
    State.reset.table = State.table { State.reset with kind := .chart } ∧
    State.reset.bufCap = State.bufCap { State.reset with kind := .chart } := ⟨rfl, rfl, rfl, rfl⟩

/-- V10. -/
theorem witness_ThreeMissesRecover :
    State.reset.miss = 0 ∧ State.reset.bufCap = none ∧ IsUnknown builtTable ([] ++ [0x99]) ∧
    IsUnknown builtTable ([] ++ [0x99] ++ [1, 2, 3, 4, 5, 6]) ∧
    IsUnknown builtTable ([] ++ [0x99] ++ [1, 2, 3, 4, 5, 6] ++ [0xAA]) ∧ IsUnknown builtTable [0xBB] :=
  ⟨rfl, rfl, by decide, by decide, by decide, by decide⟩

theorem witness_wire_frames_into_reset :
    State.reset.table = builtTable ∧ State.reset.buf = [] ∧ State.reset.bufCap = none ∧
    ([0x64, 0x00, 0xC8, 0x00] : List Byte).length ≤ 65525 := ⟨rfl, rfl, rfl, by decide⟩

/-- The recipe of R78 on the payload of V4 builds the frame of V4. -/
theorem test_built_frame : chartFrame [0x64, 0x00, 0xC8, 0x00] = chart14 := by decide +kernel

theorem witness_EveryCommandCompletes :
    (blockWith [] 0 (.port 0xFF [1])).pending = [.port 0xFF [1]] ∧ fromOutside (.port 0xFF [1]) = true ∧
    ∀ b bs, Request.port 0xFF [1] ≠ .port 0x00 (b :: bs) := ⟨rfl, rfl, by simp⟩

theorem witness_exec_next_of_clear : ∃ t, exec .clear State.reset = .next t ∧ Instr.clear ≠ .reset := ⟨_, rfl, by simp⟩

/-- The invariants at a state after reset with a delivery presented, whose step answers a next state. -/
theorem witness_invariants : ∃ s t : State, s.RegistersOk ∧ s.BetweenCommands ∧ step s = .next t :=
  ⟨blockWith [] 0 (.push battery9), _,
    ⟨rfl, by decide, by decide, by decide, by decide, by decide, by simp [blockWith, State.reset]⟩,
    ⟨by simp [blockWith, fromOutside], rfl, rfl, by decide, by decide, by decide, by decide⟩, rfl⟩

theorem witness_outside_requests : ∀ r ∈ [Request.port 0x01 [0x24], .push chart14], fromOutside r = true := by
  decide

end Sys2Proof.Tests
end

section
/-! PROOFS. The event rows (R52, R104): what a drop count must meet, each row's equation over `emit`, and O33. -/

namespace Sys2Proof.Machine

/-- R52: the counts an `RX_DROP` may carry. -/
theorem dropCountOk_iff (N : Int) : dropCountOk N = true ↔ 4 ≤ N ∧ N ≤ 65535 := by
  simp [dropCountOk]

/-- R8: `emit` as an update of the event list alone. -/
theorem emit_eq (E : Event) (s : State) : emit E s = { s with events := s.events ++ [E] } := rfl

variable (s : State)

theorem exec_evFrameBi (bytes : List Byte) : exec (.evFrameBi bytes) s = .next (emit (.frameBi bytes) s) := rfl

theorem exec_evFrameChart (bytes : List Byte) :
    exec (.evFrameChart bytes) s = .next (emit (.frameChart bytes) s) := rfl

theorem exec_evFrameCd : exec .evFrameCd s = .next (emit .frameCd s) := rfl

theorem exec_evRxDrop (n : Nat) :
    exec (.evRxDrop n) s = if dropCountOk n then .next (emit (.rxDrop n) s) else .fault .dropOutside := rfl

theorem exec_evRxClear : exec .evRxClear s = .next (emit .rxClear s) := rfl

/-- `RX_DROP` is the one event row with a guard; within the range of R52 it emits. -/
theorem exec_evRxDrop_of_mem_range {n : Nat} (low : 4 ≤ n) (high : n ≤ 65535) :
    exec (.evRxDrop n) s = .next (emit (.rxDrop n) s) := by
  have ok : dropCountOk n = true := (dropCountOk_iff n).2 (by omega)
  rw [exec_evRxDrop, if_pos ok]

end Sys2Proof.Machine

namespace Sys2Proof.Proofs

open Sys2Proof Sys2Proof.Machine

/-- Settles O33: each row is one `emit`, which updates the event list alone; only `RX_DROP` has a guard to pass. -/
theorem eventRowsAppendTheirEvent : Obligations.EventRowsAppendTheirEvent := by
  intro s bytes n
  simp only [← emit_eq]
  exact ⟨exec_evFrameBi s bytes, exec_evFrameChart s bytes, exec_evFrameCd s,
    exec_evRxDrop_of_mem_range s, exec_evRxClear s⟩

end Sys2Proof.Proofs
end

section
/-! PROOFS. What each shared operation leaves unchanged, and the three shapes that later statements about every
operation go through: the passes of a delivery, the effect of an operation, and the steps of the machine. -/

namespace Sys2Proof.Machine

/-! ### The passes of a delivery -/

theorem kind_eq_unknown_or_kindOf (k : Kind) : k = .unknown ∨ ∃ f : FrameKind, k = kindOf f := by
  cases k
  case unknown => exact .inl rfl
  case batteryInfo => exact .inr ⟨.batteryInfo, rfl⟩
  case chart => exact .inr ⟨.chart, rfl⟩
  case chartDisplay => exact .inr ⟨.chartDisplay, rfl⟩

/-- R97: a pass that classifies its bytes as Unknown counts a miss. -/
theorem deliverPass_of_unknown {s : State} (hk : (classifyBuffer s).kind = .unknown) :
    deliverPass s = missUpdate .unknown (classifyBuffer s) := by
  simp [deliverPass, hk]

/-- The state in which a pass dispatches the kind it has determined: classified, the miss counter reset (R98). -/
def determined (s : State) : State := { classifyBuffer s with miss := 0, phase := .complete }

/-- R97: a pass that determines a kind resets the miss counter and dispatches that kind. -/
theorem deliverPass_of_kindOf {s : State} {k : FrameKind} (hk : (classifyBuffer s).kind = kindOf k) :
    deliverPass s = dispatch k (determined s) := by
  cases k <;> simp [deliverPass, hk, kindOf, missUpdate, determined]

/-- The loop's induction for an invariant of single states: what every pass that goes on keeps, and every pass that
stops turns into `End`. -/
theorem deliverLoop_ends {Inv End : State → Prop}
    (stop : ∀ s s', Inv s → deliverPass s = (s', .stop) → End s')
    (go : ∀ s s', Inv s → deliverPass s = (s', .proceed) → Inv s')
    {s : State} (hs : Inv s) : End (deliverLoop (s.buf.length + 1) s) :=
  deliverLoop_induct (fun s t => Inv s → End t) (fun s s' h hs => stop s s' hs h)
    (fun s s' _ h ih hs => ih (go s s' hs h)) s hs

/-- The same for a predicate that every pass keeps. -/
theorem deliverLoop_keeps {Inv : State → Prop} (pass : ∀ s, Inv s → Inv (deliverPass s).1)
    {s : State} (hs : Inv s) : Inv (deliverLoop (s.buf.length + 1) s) :=
  deliverLoop_ends (fun s s' hs h => by simpa [h] using pass s hs)
    (fun s s' hs h => by simpa [h] using pass s hs) hs

/-- R91: `APPEND` goes on exactly where the batch fits. -/
theorem exceedsCap_eq_false_iff_fits (s : State) (D : List Byte) :
    exceedsCap s.bufCap s.buf.length D.length = false ↔ Fits s D := by
  unfold exceedsCap Fits
  cases s.bufCap <;> simp

/-! ### The fields a delivery's loop does not write -/

/-- `FAULT`, `TABLE`, the requests still presented and the capacity are the same in both states. -/
structure KeepsFrame (s t : State) : Prop where
  fault : t.fault = s.fault
  table : t.table = s.table
  pending : t.pending = s.pending
  bufCap : t.bufCap = s.bufCap

theorem KeepsFrame.trans {s t u : State} (hst : KeepsFrame s t) (htu : KeepsFrame t u) : KeepsFrame s u :=
  ⟨htu.fault.trans hst.fault, htu.table.trans hst.table, htu.pending.trans hst.pending,
    htu.bufCap.trans hst.bufCap⟩

theorem missUpdate_keepsFrame (k : Kind) (s : State) : KeepsFrame s (missUpdate k s).1 := by
  rcases missUpdate_cases k s with ⟨-, h⟩ | ⟨-, -, h⟩ | ⟨-, -, h⟩ <;> rw [h] <;> exact ⟨rfl, rfl, rfl, rfl⟩

theorem dispatch_keepsFrame (k : FrameKind) (s : State) : KeepsFrame s (dispatch k s).1 := by
  cases k with
  | batteryInfo => exact ⟨rfl, rfl, rfl, rfl⟩
  | chartDisplay => exact ⟨rfl, rfl, rfl, rfl⟩
  | chart =>
    rw [show dispatch .chart s = dispatchChart s from rfl]
    rcases dispatchChart_cases s with ⟨-, h⟩ | ⟨-, -, h⟩ | ⟨-, -, h⟩ <;> rw [h] <;> exact ⟨rfl, rfl, rfl, rfl⟩

theorem deliverPass_keepsFrame (s : State) : KeepsFrame s (deliverPass s).1 := by
  have classified : KeepsFrame s (classifyBuffer s) := ⟨rfl, rfl, rfl, rfl⟩
  rcases kind_eq_unknown_or_kindOf (classifyBuffer s).kind with hk | ⟨k, hk⟩
  · rw [deliverPass_of_unknown hk]
    exact classified.trans (missUpdate_keepsFrame _ _)
  · have before : KeepsFrame s (determined s) := ⟨rfl, rfl, rfl, rfl⟩
    rw [deliverPass_of_kindOf hk]
    exact before.trans (dispatch_keepsFrame k (determined s))

theorem deliverLoop_keepsFrame (s : State) : KeepsFrame s (deliverLoop (s.buf.length + 1) s) :=
  deliverLoop_keeps (fun _ h => h.trans (deliverPass_keepsFrame _)) (⟨rfl, rfl, rfl, rfl⟩ : KeepsFrame s s)

/-- R96: a delivery that fits is the loop, run on the buffer with the batch behind it. -/
theorem deliver_of_fits {s : State} {D : List Byte} (fits : Fits s D) :
    deliver D s = deliverLoop ((s.buf ++ D).length + 1) { s with buf := s.buf ++ D } := by
  have hcap := (exceedsCap_eq_false_iff_fits s D).2 fits
  rcases deliver_cases D s with ⟨h, -⟩ | ⟨-, h⟩
  · rw [hcap] at h; cases h
  · exact h

/-- R91: one that does not fit is refused whole. -/
theorem deliver_of_not_fits {s : State} {D : List Byte} (unfit : ¬ Fits s D) :
    deliver D s = { s with fault := setOverflow s.fault, result := .refused } := by
  rcases deliver_cases D s with ⟨-, h⟩ | ⟨h, -⟩
  · exact h
  · exact absurd ((exceedsCap_eq_false_iff_fits s D).1 h) unfit

/-- R90, R91: the two ends of `APPEND`, by whether the batch fits. -/
theorem appendBatch_of_fits {s : State} {D : List Byte} (fits : Fits s D) :
    appendBatch D s = ({ s with buf := s.buf ++ D }, .proceed) := by
  simp [appendBatch, (exceedsCap_eq_false_iff_fits s D).2 fits]

theorem appendBatch_of_not_fits {s : State} {D : List Byte} (unfit : ¬ Fits s D) :
    appendBatch D s = ({ s with fault := setOverflow s.fault, result := .refused }, .stop) := by
  have hcap := mt (exceedsCap_eq_false_iff_fits s D).1 unfit
  simp [appendBatch, hcap]

theorem deliver_table_eq (D : List Byte) (s : State) : (deliver D s).table = s.table := by
  by_cases fits : Fits s D
  · rw [deliver_of_fits fits]; exact (deliverLoop_keepsFrame { s with buf := s.buf ++ D }).table
  · rw [deliver_of_not_fits fits]

theorem deliver_pending_eq (D : List Byte) (s : State) : (deliver D s).pending = s.pending := by
  by_cases fits : Fits s D
  · rw [deliver_of_fits fits]; exact (deliverLoop_keepsFrame { s with buf := s.buf ++ D }).pending
  · rw [deliver_of_not_fits fits]

/-! ### The ranges of the scratch registers -/

/-- `IDX` and `LEN` are in their ranges (R15, R16). -/
structure ScratchOk (eng : Engine) (len : Int) : Prop where
  idx : eng.idx ≤ 65533
  lenLow : -2 ≤ len
  lenHigh : len ≤ 65533

theorem State.RegistersOk.scratch {s : State} (hs : s.RegistersOk) : ScratchOk s.eng s.len :=
  ⟨hs.idx, hs.lenLow, hs.lenHigh⟩

/-- R15: `CRCPAIR` leaves `IDX` at most `F`. -/
theorem crcPair_idx_le (T : CrcTable) (B : List Byte) {F : Int} (e : Engine) (hF : F ≤ 65533) :
    (crcPair T B F e).idx ≤ 65533 := by
  rw [(crcPair_crc_idx T B F e).2, List.length_take]
  omega

theorem ckValid_keeps_scratchOk (T : CrcTable) (B : List Byte) {eng : Engine} {len : Int}
    (h : ScratchOk eng len) : ScratchOk (ckValid T B eng len).eng (ckValid T B eng len).len := by
  rcases ckValid_cases T B eng len with ⟨-, hc⟩ | ⟨F, hF, ⟨-, hc⟩ | ⟨-, -, hc⟩⟩ <;> rw [hc]
  · exact h
  all_goals obtain ⟨-, low, high⟩ := frameLength_eq_some B F hF
  · exact ⟨h.idx, low, high⟩
  · exact ⟨crcPair_idx_le T B eng high, low, high⟩

/-- What `CLASSIFY` leaves in the scratch registers: nothing new, the frame length, or what `CKVALID` leaves. -/
theorem classify_scratch_cases (T : CrcTable) (B : List Byte) (eng : Engine) (len : Int) :
    ((classify T B eng len).eng = eng ∧ (classify T B eng len).len = len) ∨
    ∃ F, frameLength B = some F ∧
      (((classify T B eng len).eng = eng ∧ (classify T B eng len).len = F) ∨
       ((classify T B eng len).eng = (ckValid T B eng F).eng ∧
        (classify T B eng len).len = (ckValid T B eng F).len)) := by
  unfold classify
  split
  · split
    · exact .inl ⟨rfl, rfl⟩
    · split <;> exact .inl ⟨rfl, rfl⟩
  · split
    · dsimp only
      generalize (if sigCh B = true then FrameKind.chart else .chartDisplay) = k
      split
      · exact .inl ⟨rfl, rfl⟩
      · split
        · exact .inl ⟨rfl, rfl⟩
        · split
          · exact .inl ⟨rfl, rfl⟩
          · rename_i F hF
            refine .inr ⟨F, hF, ?_⟩
            split
            · exact .inl ⟨rfl, rfl⟩
            · split <;> exact .inr ⟨rfl, rfl⟩
    · split <;> exact .inl ⟨rfl, rfl⟩

theorem classify_keeps_scratchOk (T : CrcTable) (B : List Byte) {eng : Engine} {len : Int}
    (h : ScratchOk eng len) : ScratchOk (classify T B eng len).eng (classify T B eng len).len := by
  rcases classify_scratch_cases T B eng len with ⟨he, hl⟩ | ⟨F, hF, ⟨he, hl⟩ | ⟨he, hl⟩⟩ <;> rw [he, hl]
  · exact h
  all_goals obtain ⟨-, low, high⟩ := frameLength_eq_some B F hF
  · exact ⟨h.idx, low, high⟩
  · exact ckValid_keeps_scratchOk T B ⟨h.idx, low, high⟩

theorem freeScratch_ok (n : Nat) : ScratchOk (freeEngine n) (freeLen n) := by
  have hidx := (Config.freeIdx n).isLt
  have hlen := (Config.freeLenField n).isLt
  constructor <;> simp only [freeEngine, freeLen] <;> omega

/-! ### The effect of an operation -/

/-- What an operation other than `RESET` and `TBLGEN` may do to the state when it answers a next one. -/
inductive OpEffect (i : Instr) (s : State) : State → Prop where
  /-- A value is returned and scratch registers may be written, within their ranges where the operand is one the
  spec allows. -/
  | returned (v : OpResult) (eng : Engine) (len : Int) (free : Nat)
      (ok : i.wf = true → ScratchOk s.eng s.len → ScratchOk eng len) :
      OpEffect i s { s with eng := eng, len := len, value := v, free := free }
  | emitted (E : Event) : OpEffect i s (emit E s)
  | delivered (D : List Byte) : OpEffect i s (deliver D s)
  | appended (D : List Byte) : OpEffect i s (appendBatch D s).1
  | truncated (k : Nat) : OpEffect i s (truncBuf k s)
  | cleared : OpEffect i s (clearBuf s)
  | missUpdated (k : Kind) : OpEffect i s (missUpdate k s).1
  | dispatched (k : FrameKind) : OpEffect i s (dispatch k s).1

/-- A value returned with the scratch registers as they were. -/
theorem OpEffect.returned_only {i : Instr} {s : State} (v : OpResult) : OpEffect i s (returnValue v s) :=
  .returned v s.eng s.len s.free fun _ h => h

theorem execCrcpair_effect {B : List Byte} {F : Int} {s t : State} (h : execCrcpair B F s = .next t) :
    OpEffect (.crcpair B F) s t := by
  unfold execCrcpair at h
  split at h
  · cases h
  · cases h
    refine .returned _ _ _ s.free fun wf hs => ⟨crcPair_idx_le _ _ _ ?_, hs.lenLow, hs.lenHigh⟩
    simp only [Instr.wf, Bool.and_eq_true, decide_eq_true_eq] at wf
    obtain ⟨⟨-, high⟩, -⟩ := wf
    exact high

theorem execCkvalid_effect {B : List Byte} {s t : State} (h : execCkvalid B s = .next t) :
    OpEffect (.ckvalid B) s t := by
  unfold execCkvalid at h
  split at h
  · cases h
  · cases h
    exact .returned _ _ _ s.free fun _ hs => ckValid_keeps_scratchOk _ _ hs

theorem execFlen_effect {B : List Byte} {s t : State} (h : execFlen B s = .next t) :
    OpEffect (.flen B) s t := by
  unfold execFlen at h
  split at h
  · cases h
  · rename_i F hF
    cases h
    obtain ⟨-, low, high⟩ := frameLength_eq_some B F hF
    exact .returned _ s.eng _ s.free fun _ hs => ⟨hs.idx, low, high⟩

theorem execMinlen_effect {k : Kind} {s t : State} (h : execMinlen k s = .next t) :
    OpEffect (.minlen k) s t := by
  cases k with
  | unknown => cases h; exact .returned _ s.eng s.len _ fun _ hs => hs
  | batteryInfo => cases h; exact .returned_only _
  | chart => cases h; exact .returned_only _
  | chartDisplay => cases h; exact .returned_only _

theorem execTrunc_effect {k : Nat} {s t : State} (h : execTrunc k s = .next t) : OpEffect (.trunc k) s t := by
  unfold execTrunc at h
  split at h
  · cases h
  · cases h; exact .truncated k

theorem execDispatch_effect {k : FrameKind} {s t : State} (h : execDispatch k s = .next t) :
    OpEffect (.dispatch k) s t := by
  unfold execDispatch at h
  split at h
  · cases h
  · cases h; exact .dispatched k

theorem execEvRxDrop_effect {n : Nat} {s t : State} (h : execEvRxDrop n s = .next t) :
    OpEffect (.evRxDrop n) s t := by
  unfold execEvRxDrop at h
  split at h
  · cases h; exact .emitted _
  · cases h

/-- The effect of every operation but the two that write `TABLE`. -/
theorem exec_effect {i : Instr} {s t : State} (h : exec i s = .next t) (not_reset : i ≠ .reset)
    (not_tblgen : i ≠ .tblgen) : OpEffect i s t := by
  cases i with
  | reset => exact absurd rfl not_reset
  | tblgen => exact absurd rfl not_tblgen
  | deliver D => cases h; exact .delivered D
  | crcstep crc byte => cases h; exact .returned_only _
  | crcpair B F => exact execCrcpair_effect h
  | ckvalid B => exact execCkvalid_effect h
  | flen B => exact execFlen_effect h
  | minlen k => exact execMinlen_effect h
  | sigbi B => cases h; exact .returned_only _
  | sigch B => cases h; exact .returned_only _
  | sigcd B => cases h; exact .returned_only _
  | trailer B => cases h; exact .returned_only _
  | classify B => cases h; exact .returned _ _ _ s.free fun _ hs => classify_keeps_scratchOk _ _ hs
  | append D => cases h; exact .appended D
  | trunc k => exact execTrunc_effect h
  | clear => cases h; exact .cleared
  | missupd k => cases h; exact .missUpdated k
  | dispatch k => exact execDispatch_effect h
  | evFrameBi B => cases h; exact .emitted _
  | evFrameChart B => cases h; exact .emitted _
  | evFrameCd => cases h; exact .emitted _
  | evRxDrop n => exact execEvRxDrop_effect h
  | evRxClear => cases h; exact .emitted _
  | frameBi tail => cases h; exact .delivered _
  | frameCh L rest => cases h; exact .delivered _
  | frameCd rest => cases h; exact .delivered _

/-! ### The steps of the machine -/

/-- What a step that answers a next state has done: nothing, one operation, or a reserved code at the port. -/
theorem step_cases {s t : State} (h : step s = .next t) :
    (s.pending = [] ∧ t = s) ∨
    ∃ r rest, s.pending = r :: rest ∧
      ((∃ i, decode r = .ok i ∧ exec i (beginCommand rest s) = .next t) ∨
       t = { beginCommand rest s with fault := setIllCmd s.fault }) := by
  unfold step at h
  split at h
  next hp => exact .inl ⟨hp, (Host.Outcome.next.inj h).symm⟩
  next r rest hp =>
    refine .inr ⟨r, rest, hp, ?_⟩
    split at h
    next i hi => exact .inl ⟨i, hi, h⟩
    next why _ =>
      rcases rejectRequest_cases r why (beginCommand rest s) with ⟨_, _, _, -, -, hr⟩ | hr
      · rw [hr] at h; exact .inr (Host.Outcome.next.inj h).symm
      · rw [hr] at h; cases h

end Sys2Proof.Machine
end

section
/-! PROOFS. `TABLE`, `FAULT` and the codes (R18 to R23, R28): what every operation leaves in them, with O48, O49,
O51 and O52. -/

namespace Sys2Proof.Machine

/-- R23: `TABLE` is written by `RESET` and `TBLGEN` alone. -/
theorem OpEffect.table_eq {i : Instr} {s t : State} (h : OpEffect i s t) : t.table = s.table := by
  cases h with
  | returned => rfl
  | emitted => rfl
  | delivered D => exact deliver_table_eq D s
  | appended D =>
    by_cases fits : Fits s D
    · rw [appendBatch_of_fits fits]
    · rw [appendBatch_of_not_fits fits]
  | truncated => rfl
  | cleared => rfl
  | missUpdated k => exact (missUpdate_keepsFrame k s).table
  | dispatched k => exact (dispatch_keepsFrame k s).table

/-- R22, R91: `FAULT` is kept, or a batch beyond a finite capacity sets `OVERFLOW`. -/
def FaultKeptOrOverflow (s t : State) : Prop :=
  t.fault = s.fault ∨ s.bufCap ≠ none ∧ t.fault = setOverflow s.fault

theorem bufCap_ne_none_of_not_fits {s : State} {D : List Byte} (unfit : ¬ Fits s D) : s.bufCap ≠ none :=
  fun unbounded => unfit (by simp [Fits, unbounded])

theorem OpEffect.fault_cases {i : Instr} {s t : State} (h : OpEffect i s t) : FaultKeptOrOverflow s t := by
  cases h with
  | returned => exact .inl rfl
  | emitted => exact .inl rfl
  | delivered D =>
    by_cases fits : Fits s D
    · rw [deliver_of_fits fits]
      exact .inl (deliverLoop_keepsFrame { s with buf := s.buf ++ D }).fault
    · rw [deliver_of_not_fits fits]
      exact .inr ⟨bufCap_ne_none_of_not_fits fits, rfl⟩
  | appended D =>
    by_cases fits : Fits s D
    · rw [appendBatch_of_fits fits]
      exact .inl rfl
    · rw [appendBatch_of_not_fits fits]
      exact .inr ⟨bufCap_ne_none_of_not_fits fits, rfl⟩
  | truncated => exact .inl rfl
  | cleared => exact .inl rfl
  | missUpdated k => exact .inl (missUpdate_keepsFrame k s).fault
  | dispatched k => exact .inl (dispatch_keepsFrame k s).fault

theorem exec_fault_cases {i : Instr} {s t : State} (h : exec i s = .next t) (not_reset : i ≠ .reset) :
    FaultKeptOrOverflow s t := by
  by_cases is_tblgen : i = .tblgen
  · subst is_tblgen
    cases h
    exact .inl rfl
  · exact (exec_effect h not_reset is_tblgen).fault_cases

@[simp] theorem faultOverflow_setOverflow (f : BitVec 2) : faultOverflow (setOverflow f) = true := by
  simp [faultOverflow, setOverflow]

@[simp] theorem faultIllCmd_setOverflow (f : BitVec 2) : faultIllCmd (setOverflow f) = faultIllCmd f := by
  simp [faultIllCmd, setOverflow]

end Sys2Proof.Machine

namespace Sys2Proof.Proofs

open Sys2Proof Sys2Proof.Machine

/-- Settles O48, field by field of `State.reset`. -/
theorem resetStateValues : Obligations.ResetStateValues := ⟨rfl, rfl, rfl, rfl, rfl, rfl, rfl, rfl⟩

/-- Settles O49, code by code. -/
theorem statusAndEventCodes : Obligations.StatusAndEventCodes := ⟨rfl, rfl, rfl, rfl, rfl⟩

/-- Settles O51: the two operations that write `TABLE` write `builtTable`, and no other effect touches it. -/
theorem tableIsNeverWrittenOtherwise : Obligations.TableIsNeverWrittenOtherwise := by
  intro i s t h
  constructor
  · rintro (rfl | rfl) <;> cases h <;> rfl
  · rintro ⟨not_reset, not_tblgen⟩
    exact (exec_effect h not_reset not_tblgen).table_eq

/-- Settles O52: `FAULT` changes by `setOverflow` alone, and only with a finite capacity. -/
theorem faultBitsAreSticky : Obligations.FaultBitsAreSticky := by
  intro i s t h not_reset
  rcases exec_fault_cases h not_reset with kept | ⟨finite, overflow⟩
  · rw [kept]
    exact ⟨id, rfl, fun _ => rfl⟩
  · rw [overflow]
    exact ⟨fun _ => faultOverflow_setOverflow _, faultIllCmd_setOverflow _,
      fun unbounded => absurd unbounded finite⟩

end Sys2Proof.Proofs
end

section
/-! PROOFS. The registers in their ranges (R15 to R17, R20, R23, R24): operands of decoded requests are
well-formed, and every operation keeps `RegistersOk`; with O54 and O55. -/

namespace Sys2Proof

/-! ### Decoded operations are well-formed -/

/-- Every operation that a row's reading of operand bytes gives is well-formed. -/
def ParsesWf (parse : List Byte → Except Reject Instr) : Prop :=
  ∀ bytes i, parse bytes = .ok i → i.wf = true

theorem parseNone_wf (code : Byte) {i : Instr} (wf : i.wf = true) : ParsesWf (parseNone code i) := by
  intro bytes j h
  cases bytes with
  | nil => cases h; exact wf
  | cons _ _ => cases h

theorem parseBytes_wf {mk : List Byte → Instr} (wf : ∀ bytes, (mk bytes).wf = true) : ParsesWf (parseBytes mk) := by
  intro bytes j h
  cases h
  exact wf bytes

theorem parseFourOrMore_wf (code : Byte) {mk : List Byte → Instr}
    (wf : ∀ bytes, 4 ≤ bytes.length → (mk bytes).wf = true) : ParsesWf (parseFourOrMore code mk) := by
  intro bytes j h
  unfold parseFourOrMore at h
  split at h
  next four => cases h; exact wf bytes four
  next => cases h

theorem parseKind_wf (code : Byte) {mk : Kind → Instr} (wf : ∀ k, (mk k).wf = true) :
    ParsesWf (parseKind code mk) := by
  intro bytes j h
  unfold parseKind at h
  split at h
  next => cases h
  next =>
    split at h
    next k _ => cases h; exact wf k
    next => cases h
  next => cases h

theorem parseFrameKind_wf (code : Byte) {mk : FrameKind → Instr} (wf : ∀ k, (mk k).wf = true) :
    ParsesWf (parseFrameKind code mk) := by
  intro bytes j h
  unfold parseFrameKind at h
  split at h
  next => cases h
  next =>
    split at h
    next k _ => cases h; exact wf k
    next => cases h
  next => cases h

theorem parseCount_wf (code : Byte) {mk : Nat → Instr} (wf : ∀ n, (mk n).wf = true) :
    ParsesWf (parseCount code mk) := by
  intro bytes j h
  obtain ⟨n, rfl, -⟩ := parseCount_eq_ok code mk bytes j h
  exact wf n

/-- R52: a count that `RX_DROP` is given is in its range. -/
theorem parseDrop_wf (code : Byte) : ParsesWf (parseDrop code) := by
  intro bytes j h
  unfold parseDrop at h
  split at h
  next lo hi =>
    split at h
    next high => cases h; simp [Instr.wf, high]
    next => cases h
  all_goals cases h

theorem parseCrcStep_wf (code : Byte) : ParsesWf (parseCrcStep code) := by
  intro bytes j h
  unfold parseCrcStep at h
  split at h
  next => cases h; rfl
  all_goals cases h

/-- R16, R73: the `F` of a `CRCPAIR` is a 16-bit field less 2, and no more than the bytes given. -/
theorem parseCrcPair_wf (code : Byte) : ParsesWf (parseCrcPair code) := by
  intro bytes j h
  unfold parseCrcPair at h
  split at h
  next lo hi rest =>
    split at h
    next within =>
      cases h
      have := (le16 lo hi).isLt
      simp only [Instr.wf, Bool.and_eq_true, decide_eq_true_eq]
      omega
    next => cases h
  all_goals cases h

theorem opTable_parsesWf : ∀ r ∈ opTable, ParsesWf r.parse := by
  simp only [opTable, List.cons_append, List.nil_append, List.forall_mem_cons]
  have four (mk : List Byte → Instr) (h : ∀ bytes, (mk bytes).wf = decide (4 ≤ bytes.length)) :
      ∀ bytes, 4 ≤ bytes.length → (mk bytes).wf = true := fun bytes hb => by simp [h, hb]
  exact ⟨parseNone_wf _ rfl, parseBytes_wf fun _ => rfl, parseNone_wf _ rfl, parseCrcStep_wf _, parseCrcPair_wf _,
    parseFourOrMore_wf _ (four _ fun _ => rfl), parseFourOrMore_wf _ (four _ fun _ => rfl),
    parseKind_wf _ fun _ => rfl, parseBytes_wf fun _ => rfl, parseBytes_wf fun _ => rfl, parseBytes_wf fun _ => rfl,
    parseBytes_wf fun _ => rfl, parseBytes_wf fun _ => rfl, parseBytes_wf fun _ => rfl, parseCount_wf _ fun _ => rfl,
    parseNone_wf _ rfl, parseKind_wf _ fun _ => rfl, parseFrameKind_wf _ fun _ => rfl, parseBytes_wf fun _ => rfl,
    parseBytes_wf fun _ => rfl, parseNone_wf _ rfl, parseDrop_wf _, parseNone_wf _ rfl, nofun⟩

theorem decodeOp_wf {code : Byte} {operand : List Byte} {i : Instr} (h : decodeOp code operand = .ok i) :
    i.wf = true := by
  unfold decodeOp at h
  split at h
  next r hr => exact opTable_parsesWf r (List.mem_of_find?_eq_some hr) operand i h
  next => cases h

/-- R53: pushed bytes that begin with a signature are read as one of the three frame formats. -/
theorem decodeFrame_cases {bytes : List Byte} {i : Instr} (h : decodeFrame bytes = .ok i) :
    (∃ tail, i = .frameBi tail) ∨ (∃ L rest, i = .frameCh L rest) ∨ ∃ rest, i = .frameCd rest := by
  unfold decodeFrame at h
  split at h
  next b0 b1 b2 b3 b4 tail =>
    split at h
    next => cases h; exact .inl ⟨_, rfl⟩
    next =>
      split at h
      next b5 rest =>
        split at h
        next => cases h; exact .inr (.inl ⟨_, _, rfl⟩)
        next =>
          split at h
          next => cases h; exact .inr (.inr ⟨_, rfl⟩)
          next => cases h
      next => cases h
  next => cases h

/-- R51: a push is one of the three formats, or a delivery of its bytes. -/
theorem decode_push_cases {bytes : List Byte} {i : Instr} (h : decode (.push bytes) = .ok i) :
    (∃ D, i = .deliver D) ∨ (∃ tail, i = .frameBi tail) ∨ (∃ L rest, i = .frameCh L rest) ∨
      ∃ rest, i = .frameCd rest := by
  simp only [decode] at h
  split at h
  next j hj => cases h; exact .inr (decodeFrame_cases hj)
  next => cases h; exact .inl ⟨_, rfl⟩

theorem decode_wf {r : Request} {i : Instr} (h : decode r = .ok i) : i.wf = true := by
  cases r with
  | port code operand =>
    simp only [decode] at h
    split at h
    next => exact decodeOp_wf h
    next => cases h
  | push bytes =>
    rcases decode_push_cases h with ⟨_, rfl⟩ | ⟨_, rfl⟩ | ⟨_, _, rfl⟩ | ⟨_, rfl⟩ <;> rfl
  | trace code operand => exact decodeOp_wf h

end Sys2Proof

namespace Sys2Proof.Machine

/-! ### Every operation keeps the ranges -/

theorem resetBlock_registersOk {s : State} : (resetBlock s).RegistersOk := by
  obtain ⟨idx, lenLow, lenHigh⟩ := freeScratch_ok s.free
  exact ⟨rfl, by simp, lenLow, lenHigh, idx, by simp, by simp⟩

/-- R24: removing bytes keeps the buffer within its capacity. -/
theorem State.RegistersOk.cap_of_length_le {s : State} (hs : s.RegistersOk) {B : List Byte}
    (shorter : B.length ≤ s.buf.length) : ∀ c, s.bufCap = some c → B.length ≤ c :=
  fun c hc => shorter.trans (hs.cap c hc)

/-- R91: so does appending a batch that fits. -/
theorem State.RegistersOk.append {s : State} (hs : s.RegistersOk) {D : List Byte} (fits : Fits s D) :
    State.RegistersOk { s with buf := s.buf ++ D } :=
  { hs with
    cap := fun c hc => by
      simp only [Fits, show s.bufCap = some c from hc] at fits
      simpa using fits }

theorem State.RegistersOk.refuse {s : State} (hs : s.RegistersOk) :
    State.RegistersOk { s with fault := setOverflow s.fault, result := .refused } := { hs with }

theorem State.RegistersOk.after_missUpdate {s : State} (hs : s.RegistersOk) (k : Kind) :
    (missUpdate k s).1.RegistersOk := by
  rcases missUpdate_cases k s with ⟨-, h⟩ | ⟨-, -, h⟩ | ⟨-, not_third, h⟩ <;> rw [h]
  · exact { hs with miss := by simp }
  · exact { hs with miss := by simp, cap := hs.cap_of_length_le (by simp) }
  · have low := hs.miss
    exact { hs with miss := by simp only; bv_omega }

theorem State.RegistersOk.after_dispatch {s : State} (hs : s.RegistersOk) (k : FrameKind) :
    (dispatch k s).1.RegistersOk := by
  cases k with
  | batteryInfo => exact { hs with cap := hs.cap_of_length_le (B := []) (Nat.zero_le _) }
  | chartDisplay => exact { hs with cap := hs.cap_of_length_le (B := []) (Nat.zero_le _) }
  | chart =>
    rw [show dispatch .chart s = dispatchChart s from rfl]
    rcases dispatchChart_cases s with ⟨-, h⟩ | ⟨-, -, h⟩ | ⟨-, -, h⟩ <;> rw [h]
    · exact { hs with cause := by simp, cap := hs.cap_of_length_le (by simp) }
    · exact { hs with cap := hs.cap_of_length_le (by simp) }
    · exact { hs with cap := hs.cap_of_length_le (by simp) }

/-- R111: no verdict of the classifier has the cause MalformedPayload or PartialChartFrame; it has the cause None
exactly with a kind. -/
theorem classify_cause (T : CrcTable) (B : List Byte) (eng : Engine) (len : Int) :
    (classify T B eng len).cause ≠ .malformedPayload ∧ (classify T B eng len).cause ≠ .partialChartFrame ∧
    ((classify T B eng len).cause = .none ↔ (classify T B eng len).kind ≠ .unknown) := by
  rcases classify_cases T B eng len with ⟨hk, hc⟩ | ⟨hk, hc, -⟩ | ⟨⟨hk, -⟩ | ⟨hk, -⟩, hc, -⟩
  · rcases hc with hc | hc | hc | hc <;> simp [hk, hc]
  all_goals simp [hk, hc]

theorem State.RegistersOk.after_classify {s : State} (hs : s.RegistersOk) : (classifyBuffer s).RegistersOk := by
  obtain ⟨idx, lenLow, lenHigh⟩ := classify_keeps_scratchOk s.table s.buf hs.scratch
  exact { hs with
    idx := idx, lenLow := lenLow, lenHigh := lenHigh
    cause := (classify_cause s.table s.buf s.eng s.len).1 }

theorem State.RegistersOk.after_pass {s : State} (hs : s.RegistersOk) : (deliverPass s).1.RegistersOk := by
  rcases kind_eq_unknown_or_kindOf (classifyBuffer s).kind with hk | ⟨k, hk⟩
  · rw [deliverPass_of_unknown hk]
    exact hs.after_classify.after_missUpdate _
  · rw [deliverPass_of_kindOf hk]
    have before : (determined s).RegistersOk := { hs.after_classify with miss := by simp [determined] }
    exact before.after_dispatch k

theorem State.RegistersOk.after_deliver {s : State} (hs : s.RegistersOk) (D : List Byte) :
    (deliver D s).RegistersOk := by
  by_cases fits : Fits s D
  · rw [deliver_of_fits fits]
    exact deliverLoop_keeps (fun _ h => h.after_pass) (hs.append fits)
  · rw [deliver_of_not_fits fits]
    exact hs.refuse

theorem OpEffect.keeps_registersOk {i : Instr} {s t : State} (h : OpEffect i s t) (wf : i.wf = true)
    (hs : s.RegistersOk) : t.RegistersOk := by
  cases h with
  | returned v eng len free ok =>
    obtain ⟨idx, lenLow, lenHigh⟩ := ok wf hs.scratch
    exact { hs with idx := idx, lenLow := lenLow, lenHigh := lenHigh }
  | emitted E => exact { hs with }
  | delivered D => exact hs.after_deliver D
  | appended D =>
    by_cases fits : Fits s D
    · rw [appendBatch_of_fits fits]; exact hs.append fits
    · rw [appendBatch_of_not_fits fits]; exact hs.refuse
  | truncated k => exact { hs with cap := hs.cap_of_length_le (by simp) }
  | cleared => exact { hs with cap := hs.cap_of_length_le (by simp) }
  | missUpdated k => exact hs.after_missUpdate k
  | dispatched k => exact hs.after_dispatch k

theorem exec_keeps_registersOk {i : Instr} {s t : State} (h : exec i s = .next t) (wf : i.wf = true)
    (hs : s.RegistersOk) : t.RegistersOk := by
  by_cases is_reset : i = .reset
  · subst is_reset
    cases h
    exact resetBlock_registersOk
  by_cases is_tblgen : i = .tblgen
  · subst is_tblgen
    cases h
    exact { hs with table := rfl }
  exact (exec_effect h is_reset is_tblgen).keeps_registersOk wf hs

end Sys2Proof.Machine

namespace Sys2Proof.Proofs

open Sys2Proof Sys2Proof.Machine

/-- Settles O54: a decoded operation has well-formed operands, and an operation with those keeps the ranges. -/
theorem everyStepKeepsRegistersOk : Obligations.EveryStepKeepsRegistersOk := by
  intro s t hs h
  rcases step_cases h with ⟨-, rfl⟩ | ⟨r, rest, -, ⟨i, hi, he⟩ | rfl⟩
  · exact hs
  · exact exec_keeps_registersOk he (decode_wf hi) { hs with }
  · exact { hs with }

/-- Settles O55, register by register. -/
theorem resetRegistersOk : Obligations.ResetRegistersOk :=
  ⟨rfl, by decide, by decide, by decide, by decide, by decide, by simp [State.reset]⟩

end Sys2Proof.Proofs
end

section
/-! PROOFS. What holds between commands (R27, R105): how a delivery's last pass leaves the status registers, the
operations the outside can present, and O56 and O57. -/

namespace Sys2Proof.Machine

/-! ### How a delivery ends -/

/-- The endings of R105: what `RESULT` says of the buffer, the miss counter and the status registers. -/
def EndsAs (t : State) : Result → Prop
  | .idle => False
  | .decoded => t.buf = [] ∧ t.miss = 0 ∧ t.kind ≠ .unknown ∧ t.cause = .none
  | .waiting => (t.miss = 1 ∨ t.miss = 2) ∧ t.kind = .unknown ∧ t.cause ≠ .none ∧ t.cause ≠ .partialChartFrame
  | .desync => t.buf = [] ∧ t.miss = 0 ∧ t.kind = .unknown ∧ t.cause ≠ .none ∧ t.cause ≠ .partialChartFrame
  | .partialDiscard => t.buf = [] ∧ t.miss = 0 ∧ t.kind = .chart ∧ t.cause = .partialChartFrame
  | .refused => False

/-- An ended delivery: `PHASE` Idle, and one of the endings. -/
structure DeliveryEnded (t : State) : Prop where
  phase : t.phase = .idle
  ending : EndsAs t t.result

theorem missUpdate_unknown_ends {s : State} (miss : s.miss.toNat ≤ 2) (kind : s.kind = .unknown)
    (cause : s.cause ≠ .none ∧ s.cause ≠ .partialChartFrame) : DeliveryEnded (missUpdate .unknown s).1 := by
  rcases missUpdate_cases .unknown s with ⟨h0, -⟩ | ⟨-, -, h⟩ | ⟨-, not_third, h⟩
  · exact absurd rfl h0
  · rw [h]
    exact ⟨rfl, rfl, rfl, kind, cause⟩
  · have counted : s.miss + 1 = 1 ∨ s.miss + 1 = 2 := by bv_omega
    rw [h]
    exact ⟨rfl, counted, kind, cause⟩

theorem dispatch_stop_ends {k : FrameKind} {s s' : State} (h : dispatch k s = (s', .stop)) (miss : s.miss = 0)
    (kind : s.kind = kindOf k) (cause : s.cause = .none) : DeliveryEnded s' := by
  have determined_kind : s.kind ≠ .unknown := by rw [kind]; cases k <;> simp [kindOf]
  cases k with
  | batteryInfo => cases h; exact ⟨rfl, rfl, miss, determined_kind, cause⟩
  | chartDisplay => cases h; exact ⟨rfl, rfl, miss, determined_kind, cause⟩
  | chart =>
    rw [show dispatch .chart s = dispatchChart s from rfl] at h
    rcases dispatchChart_cases s with ⟨-, hd⟩ | ⟨-, -, hd⟩ | ⟨-, -, hd⟩ <;> rw [hd] at h <;> cases h
    · exact ⟨rfl, rfl, miss, kind, rfl⟩
    · exact ⟨rfl, rfl, miss, determined_kind, cause⟩

theorem classifyBuffer_cause (s : State) :
    (classifyBuffer s).cause ≠ .partialChartFrame ∧
    ((classifyBuffer s).cause = .none ↔ (classifyBuffer s).kind ≠ .unknown) :=
  (classify_cause s.table s.buf s.eng s.len).2

theorem deliverPass_stop_ends {s s' : State} (miss : s.miss.toNat ≤ 2) (h : deliverPass s = (s', .stop)) :
    DeliveryEnded s' := by
  obtain ⟨not_partial, none_iff⟩ := classifyBuffer_cause s
  rcases kind_eq_unknown_or_kindOf (classifyBuffer s).kind with hk | ⟨k, hk⟩
  · have not_none : (classifyBuffer s).cause ≠ .none := fun hc => none_iff.1 hc hk
    rw [deliverPass_of_unknown hk] at h
    obtain rfl : (missUpdate .unknown (classifyBuffer s)).1 = s' := congrArg Prod.fst h
    exact missUpdate_unknown_ends miss hk ⟨not_none, not_partial⟩
  · have no_cause : (classifyBuffer s).cause = .none := none_iff.2 (by rw [hk]; cases k <;> simp [kindOf])
    rw [deliverPass_of_kindOf hk] at h
    exact dispatch_stop_ends h rfl hk no_cause

/-- R105: every delivery that is not refused ends, with `MISS` at most 2 before it. -/
theorem deliver_ends {s : State} {D : List Byte} (miss : s.miss.toNat ≤ 2) (fits : Fits s D) :
    DeliveryEnded (deliver D s) := by
  rw [deliver_of_fits fits]
  refine deliverLoop_ends (Inv := fun s => s.miss.toNat ≤ 2) (fun _ _ hm h => deliverPass_stop_ends hm h)
    (fun u u' _ h => ?_) (s := { s with buf := s.buf ++ D }) miss
  obtain ⟨_, -, -, -, -, counter_reset, -⟩ := deliverPass_proceed u u' h
  simp [counter_reset]

/-- An ended delivery is a state between commands. -/
theorem DeliveryEnded.betweenCommands {t : State} (ended : DeliveryEnded t)
    (outside : ∀ r ∈ t.pending, fromOutside r = true) (table : t.table = builtTable) : t.BetweenCommands := by
  have ending := ended.ending
  cases hr : t.result <;> rw [hr] at ending
  case idle | refused => exact ending.elim
  case waiting =>
    obtain ⟨hmiss, hkind, hcause⟩ := ending
    exact ⟨outside, ended.phase, table, by rcases hmiss with h | h <;> simp [h], by simp [hr],
      fun _ => by rcases hmiss with h | h <;> simp [h], by simp [hr, hkind, hcause]⟩
  case decoded | desync | partialDiscard =>
    obtain ⟨hbuf, hmiss, hkind, hcause⟩ := ending
    exact ⟨outside, ended.phase, table, by simp [hmiss], fun _ => ⟨hbuf, hmiss⟩, by simp [hr],
      by simp [hr, hkind, hcause]⟩

/-! ### The operations of the outside -/

/-- A `RESET` or a refusal says nothing of the registers: such a result leaves the invariant's other clauses. -/
theorem betweenCommands_of_no_ending {t : State} (no_ending : t.result = .idle ∨ t.result = .refused)
    (outside : ∀ r ∈ t.pending, fromOutside r = true) (phase : t.phase = .idle) (table : t.table = builtTable)
    (miss : t.miss.toNat ≤ 2) : t.BetweenCommands := by
  rcases no_ending with hr | hr <;>
    exact ⟨outside, phase, table, miss, by simp [hr], by simp [hr], by simp [hr]⟩

theorem State.BetweenCommands.after_deliver {s : State} (hs : s.BetweenCommands) (D : List Byte) :
    (deliver D s).BetweenCommands := by
  have outside : ∀ r ∈ (deliver D s).pending, fromOutside r = true := by
    rw [deliver_pending_eq]; exact hs.outside
  have table : (deliver D s).table = builtTable := (deliver_table_eq D s).trans hs.table
  by_cases fits : Fits s D
  · exact (deliver_ends hs.miss fits).betweenCommands outside table
  · rw [deliver_of_not_fits fits] at outside table ⊢
    exact betweenCommands_of_no_ending (.inr rfl) outside hs.phase table hs.miss

theorem State.BetweenCommands.after_reset {s : State} (hs : s.BetweenCommands) : (resetBlock s).BetweenCommands :=
  betweenCommands_of_no_ending (.inl rfl) hs.outside rfl rfl (by simp)

/-- R50, R51, R57: the outside can have the block run a reset or a delivery, and nothing else. -/
theorem decode_fromOutside {r : Request} {i : Instr} (outside : fromOutside r = true) (h : decode r = .ok i) :
    i = .reset ∨ ∃ D, ∀ s, exec i s = .next (deliver D s) := by
  cases r with
  | trace code operand => simp [fromOutside] at outside
  | push bytes =>
    rcases decode_push_cases h with ⟨D, rfl⟩ | ⟨_, rfl⟩ | ⟨_, _, rfl⟩ | ⟨_, rfl⟩
    all_goals exact .inr ⟨_, fun _ => rfl⟩
  | port code operand =>
    simp only [decode] at h
    split at h
    next command =>
      simp only [isCommandCode, Bool.or_eq_true, beq_iff_eq] at command
      rcases command with rfl | rfl
      · rw [show decodeOp 0x00 operand = parseNone 0x00 .reset operand from rfl] at h
        cases operand with
        | nil => cases h; exact .inl rfl
        | cons _ _ => cases h
      · rw [show decodeOp 0x01 operand = .ok (.deliver operand) from rfl] at h
        cases h
        exact .inr ⟨operand, fun _ => rfl⟩
    next => cases h

end Sys2Proof.Machine

namespace Sys2Proof.Proofs

open Sys2Proof Sys2Proof.Machine

/-- Settles O56: a step is nothing, a reset, a delivery or a reserved code, and each keeps the invariant. -/
theorem everyCommandKeepsBetweenCommands : Obligations.EveryCommandKeepsBetweenCommands := by
  intro s t hs h
  rcases step_cases h with ⟨-, rfl⟩ | ⟨r, rest, hp, step⟩
  · exact hs
  have outside : ∀ q ∈ r :: rest, fromOutside q = true := hp ▸ hs.outside
  have begun : (beginCommand rest s).BetweenCommands :=
    { hs with outside := fun q hq => outside q (List.mem_cons_of_mem r hq) }
  rcases step with ⟨i, hi, he⟩ | rfl
  · rcases decode_fromOutside (outside r List.mem_cons_self) hi with rfl | ⟨D, delivers⟩
    · cases he
      exact begun.after_reset
    · rw [delivers] at he
      cases he
      exact begun.after_deliver D
  · exact { begun with }

/-- Settles O57: `RESULT` is Idle, so only the ranges are left to see. -/
theorem resetBetweenCommands : Obligations.ResetBetweenCommands := by
  intro requests outside
  exact betweenCommands_of_no_ending (.inl rfl) outside rfl rfl (Nat.zero_le 2)

end Sys2Proof.Proofs
end

section
/-! PROOFS. A delivery reads `BUF`, `MISS`, `TABLE` and the capacity alone (R10): two states that agree on those are
run side by side, pass by pass; with O41. -/

namespace Sys2Proof.Machine

/-! ### What a classification reads -/

/-- The scratch registers that `CRCPAIR` sets before its loop and reads in it (R73). -/
structure SameSums (e1 e2 : Engine) : Prop where
  crc : e1.crc = e2.crc
  acc : e1.acc = e2.acc
  idx : e1.idx = e2.idx

theorem SameSums.after_crcLoop {T : CrcTable} {F : Int} {bs : List Byte} {e1 e2 : Engine} (h : SameSums e1 e2) :
    SameSums (crcLoop T F bs e1) (crcLoop T F bs e2) := by
  induction bs generalizing e1 e2 with
  | nil => exact h
  | cons b bs ih =>
    obtain ⟨crc, acc, idx⟩ := h
    exact ih ⟨by simp [crcIteration, crc], by simp [crcIteration, crc, acc, idx], by simp [crcIteration, idx]⟩

/-- R73: both results of `CRCPAIR` are functions of its operands and `TABLE`. -/
theorem crcPair_results_eq (T : CrcTable) (B : List Byte) (F : Int) (e1 e2 : Engine) :
    (crcPair T B F e1).crc = (crcPair T B F e2).crc ∧ (crcPair T B F e1).devck = (crcPair T B F e2).devck := by
  have started : SameSums { e1 with crc := crcInit, acc := 0, idx := 0 }
      { e2 with crc := crcInit, acc := 0, idx := 0 } := ⟨rfl, rfl, rfl⟩
  obtain ⟨crc, acc, -⟩ := started.after_crcLoop (T := T) (F := F) (bs := B.take F.toNat)
  exact ⟨crc, by simp only [crcPair, acc]⟩

/-- R77: so is the answer of `CKVALID`. -/
theorem ckValid_ok_eq (T : CrcTable) (B : List Byte) (e1 e2 : Engine) (len1 len2 : Int) :
    (ckValid T B e1 len1).ok = (ckValid T B e2 len2).ok := by
  unfold ckValid
  cases frameLength B with
  | none => rfl
  | some F =>
    obtain ⟨crc, devck⟩ := crcPair_results_eq T B F e1 e2
    by_cases outside : F < 2 ∨ (B.length : Int) < F
    · simp only [if_pos outside]
    · simp only [if_neg outside, crc, devck]

/-- R86, R112: so is the verdict of `CLASSIFY`. -/
theorem classify_verdict_eq (T : CrcTable) (B : List Byte) (e1 e2 : Engine) (len1 len2 : Int) :
    (classify T B e1 len1).kind = (classify T B e2 len2).kind ∧
    (classify T B e1 len1).cause = (classify T B e2 len2).cause := by
  cases hF : frameLength B with
  | none => simp only [classify, hF, apply_ite Classified.kind, apply_ite Classified.cause, and_self]
  | some F =>
    have same_ok := ckValid_ok_eq T B e1 e2 F F
    simp only [classify, hF, same_ok, apply_ite Classified.kind, apply_ite Classified.cause, and_self]

/-- R87: a Chart verdict leaves the frame length in `LEN`. -/
theorem classify_len_of_chart {T : CrcTable} {B : List Byte} {eng : Engine} {len : Int}
    (chart : (classify T B eng len).kind = .chart) : frameLength B = some (classify T B eng len).len := by
  rcases classify_cases T B eng len with ⟨hk, -⟩ | ⟨hk, -⟩ | ⟨-, -, -, -, hlen, -⟩
  · rw [hk] at chart; cases chart
  · rw [hk] at chart; cases chart
  · exact hlen

/-! ### Two deliveries side by side -/

/-- Two states, reached from event lists `e1` and `e2`, that agree on what a delivery reads, with the same events
emitted since. -/
structure Agree (e1 e2 : List Event) (s1 s2 : State) : Prop where
  buf : s1.buf = s2.buf
  miss : s1.miss = s2.miss
  table : s1.table = s2.table
  bufCap : s1.bufCap = s2.bufCap
  events : ∃ evs, s1.events = e1 ++ evs ∧ s2.events = e2 ++ evs

/-- They agree on what a delivery reports too. -/
structure AgreeEnded (e1 e2 : List Event) (s1 s2 : State) : Prop extends Agree e1 e2 s1 s2 where
  kind : s1.kind = s2.kind
  cause : s1.cause = s2.cause
  phase : s1.phase = s2.phase
  result : s1.result = s2.result

/-- Two runs of one operation take the same way on, agree, and where they stop agree on what they report. -/
structure AgreeFlow (e1 e2 : List Event) (r1 r2 : State × Flow) : Prop where
  flow : r1.2 = r2.2
  agree : Agree e1 e2 r1.1 r2.1
  ended : r1.2 = .stop → AgreeEnded e1 e2 r1.1 r2.1

variable {e1 e2 : List Event} {s1 s2 : State}

theorem AgreeFlow.of_stop {t1 t2 : State} (h : AgreeEnded e1 e2 t1 t2) :
    AgreeFlow e1 e2 (t1, .stop) (t2, .stop) := ⟨rfl, h.toAgree, fun _ => h⟩

theorem AgreeFlow.of_proceed {t1 t2 : State} (h : Agree e1 e2 t1 t2) :
    AgreeFlow e1 e2 (t1, .proceed) (t2, .proceed) := ⟨rfl, h, nofun⟩

theorem Agree.after_emit (h : Agree e1 e2 s1 s2) (E : Event) : Agree e1 e2 (emit E s1) (emit E s2) := by
  obtain ⟨evs, h1, h2⟩ := h.events
  exact ⟨h.buf, h.miss, h.table, h.bufCap, evs ++ [E], by simp [h1], by simp [h2]⟩

theorem Agree.after_truncBuf (h : Agree e1 e2 s1 s2) (k : Nat) : Agree e1 e2 (truncBuf k s1) (truncBuf k s2) :=
  ⟨congrArg (List.drop k) h.buf, h.miss, h.table, h.bufCap, h.events⟩

theorem Agree.classifyBuffer_verdict (h : Agree e1 e2 s1 s2) :
    (classifyBuffer s1).kind = (classifyBuffer s2).kind ∧
    (classifyBuffer s1).cause = (classifyBuffer s2).cause := by
  have verdict := classify_verdict_eq s2.table s2.buf s1.eng s2.eng s1.len s2.len
  rw [← h.table, ← h.buf] at verdict
  simpa only [classifyBuffer, h.table, h.buf] using verdict

theorem Agree.classifyBuffer_len (h : Agree e1 e2 s1 s2) (chart1 : (classifyBuffer s1).kind = .chart)
    (chart2 : (classifyBuffer s2).kind = .chart) : (classifyBuffer s1).len = (classifyBuffer s2).len := by
  have len1 : frameLength s1.buf = some (classifyBuffer s1).len := classify_len_of_chart chart1
  have len2 : frameLength s2.buf = some (classifyBuffer s2).len := classify_len_of_chart chart2
  rw [h.buf, len2] at len1
  exact (Option.some.inj len1).symm

/-- R98: the third miss recovers. -/
theorem missUpdate_unknown_of_third {s : State} (third : s.miss + 1 = 3) : missUpdate .unknown s =
    ({ s with buf := [], miss := 0, result := .desync, phase := .idle, events := s.events ++ [.rxClear] }, .stop) :=
  if_pos third

/-- R98: any other miss waits. -/
theorem missUpdate_unknown_of_not_third {s : State} (not_third : s.miss + 1 ≠ 3) : missUpdate .unknown s =
    ({ s with miss := s.miss + 1, result := .waiting, phase := .idle }, .stop) :=
  if_neg not_third

/-- R98: a miss in both. -/
theorem Agree.after_miss (h : Agree e1 e2 s1 s2) (kind : s1.kind = s2.kind) (cause : s1.cause = s2.cause) :
    AgreeFlow e1 e2 (missUpdate .unknown s1) (missUpdate .unknown s2) := by
  by_cases third : s2.miss + 1 = 3
  · rw [missUpdate_unknown_of_third (h.miss ▸ third), missUpdate_unknown_of_third third]
    exact .of_stop ⟨⟨rfl, rfl, h.table, h.bufCap, (h.after_emit .rxClear).events⟩, kind, cause, rfl, rfl⟩
  · rw [missUpdate_unknown_of_not_third (h.miss ▸ third), missUpdate_unknown_of_not_third third]
    exact .of_stop ⟨⟨h.buf, congrArg (· + 1) h.miss, h.table, h.bufCap, h.events⟩, kind, cause, rfl, rfl⟩

/-- The state behind a consumed Chart frame: handed over, removed, its length reported (R102). -/
def chartConsumed (s : State) : State :=
  emit (.rxDrop (s.len + 2).toNat)
    (truncBuf (s.len + 2).toNat (emit (.frameChart (s.buf.take (s.len + 2).toNat)) s))

/-- R102: a frame cut short. -/
theorem dispatchChart_of_short {s : State} (short : (s.buf.length : Int) < s.len + 2) : dispatchChart s =
    (finish .partialDiscard (raiseCause .partialChartFrame (clearBuf s)), .stop) :=
  if_pos short

/-- R102: the last frame of the buffer. -/
theorem dispatchChart_of_last {s : State} (whole : ¬ (s.buf.length : Int) < s.len + 2)
    (last : (chartConsumed s).buf.isEmpty = true) : dispatchChart s = (finish .decoded (chartConsumed s), .stop) :=
  (if_neg whole).trans (if_pos last)

/-- R102: a frame with bytes behind it. -/
theorem dispatchChart_of_more {s : State} (whole : ¬ (s.buf.length : Int) < s.len + 2)
    (more : ¬ (chartConsumed s).buf.isEmpty = true) : dispatchChart s = (chartConsumed s, .proceed) :=
  (if_neg whole).trans (if_neg more)

/-- R102: a Chart frame of the same length in both. -/
theorem Agree.after_dispatchChart (h : Agree e1 e2 s1 s2) (len : s1.len = s2.len) (kind : s1.kind = s2.kind)
    (cause : s1.cause = s2.cause) : AgreeFlow e1 e2 (dispatchChart s1) (dispatchChart s2) := by
  have consumed : Agree e1 e2 (chartConsumed s1) (chartConsumed s2) := by
    unfold chartConsumed
    rw [len, h.buf]
    exact ((h.after_emit _).after_truncBuf _).after_emit _
  have same_short : (s1.buf.length : Int) < s1.len + 2 ↔ (s2.buf.length : Int) < s2.len + 2 := by rw [h.buf, len]
  by_cases short : (s2.buf.length : Int) < s2.len + 2
  · rw [dispatchChart_of_short (same_short.2 short), dispatchChart_of_short short]
    exact .of_stop ⟨⟨rfl, h.miss, h.table, h.bufCap, h.events⟩, kind, rfl, rfl, rfl⟩
  have whole := mt same_short.1 short
  by_cases last : (chartConsumed s2).buf.isEmpty = true
  · rw [dispatchChart_of_last whole (consumed.buf ▸ last), dispatchChart_of_last short last]
    exact .of_stop ⟨⟨consumed.buf, h.miss, h.table, h.bufCap, consumed.events⟩, kind, cause, rfl, rfl⟩
  · rw [dispatchChart_of_more whole (consumed.buf ▸ last), dispatchChart_of_more short last]
    exact .of_proceed consumed

/-- R99 to R102: the same kind dispatched in both; `LEN` is read for a Chart frame alone. -/
theorem Agree.after_dispatch (h : Agree e1 e2 s1 s2) {k : FrameKind} (len : k = .chart → s1.len = s2.len)
    (kind : s1.kind = s2.kind) (cause : s1.cause = s2.cause) :
    AgreeFlow e1 e2 (dispatch k s1) (dispatch k s2) := by
  cases k with
  | batteryInfo =>
    have emitted : Agree e1 e2 (emit (.frameBi s2.buf) s1) (emit (.frameBi s2.buf) s2) := h.after_emit _
    rw [show dispatch .batteryInfo s1 = dispatchBatteryInfo s1 from rfl, dispatchBatteryInfo, h.buf]
    exact .of_stop ⟨⟨rfl, h.miss, h.table, h.bufCap, emitted.events⟩, kind, cause, rfl, rfl⟩
  | chartDisplay =>
    exact .of_stop ⟨⟨rfl, h.miss, h.table, h.bufCap, (h.after_emit .frameCd).events⟩, kind, cause, rfl, rfl⟩
  | chart => exact h.after_dispatchChart (len rfl) kind cause

/-- R96, R97: one pass in both. -/
theorem Agree.after_pass (h : Agree e1 e2 s1 s2) : AgreeFlow e1 e2 (deliverPass s1) (deliverPass s2) := by
  obtain ⟨kind, cause⟩ := h.classifyBuffer_verdict
  rcases kind_eq_unknown_or_kindOf (classifyBuffer s2).kind with hk | ⟨k, hk⟩
  · have classified : Agree e1 e2 (classifyBuffer s1) (classifyBuffer s2) :=
      ⟨h.buf, h.miss, h.table, h.bufCap, h.events⟩
    rw [deliverPass_of_unknown (kind.trans hk), deliverPass_of_unknown hk]
    exact classified.after_miss kind cause
  · have ready : Agree e1 e2 (determined s1) (determined s2) := ⟨h.buf, rfl, h.table, h.bufCap, h.events⟩
    rw [deliverPass_of_kindOf (kind.trans hk), deliverPass_of_kindOf hk]
    refine ready.after_dispatch (fun chart => ?_) kind cause
    subst chart
    exact h.classifyBuffer_len (kind.trans hk) hk

/-- R96: the loop in both, pass by pass. -/
theorem Agree.after_loop (h : Agree e1 e2 s1 s2) :
    AgreeEnded e1 e2 (deliverLoop (s1.buf.length + 1) s1) (deliverLoop (s2.buf.length + 1) s2) := by
  refine deliverLoop_induct
    (fun s t => ∀ s2, Agree e1 e2 s s2 → AgreeEnded e1 e2 t (deliverLoop (s2.buf.length + 1) s2))
    (fun s s' stops s2 h => ?_) (fun s s' t goes ih s2 h => ?_) s1 s2 h
  · obtain ⟨flow, -, ended⟩ := h.after_pass
    rw [stops] at flow ended
    rw [deliverLoop_unfold, show deliverPass s2 = (_, .stop) from Prod.ext rfl flow.symm]
    exact ended rfl
  · obtain ⟨flow, agree, -⟩ := h.after_pass
    rw [goes] at flow agree
    rw [deliverLoop_unfold, show deliverPass s2 = (_, .proceed) from Prod.ext rfl flow.symm]
    exact ih _ agree

end Sys2Proof.Machine

namespace Sys2Proof.Proofs

open Sys2Proof Sys2Proof.Machine

/-- Settles O41: where the batch fits, both loops start with the same buffer, counter, table and capacity, and no pass
tells them apart; where it does not, both are refused. -/
theorem deliverReadsOnlyBufMissTable : Obligations.DeliverReadsOnlyBufMissTable := by
  intro s1 s2 D buf miss table bufCap
  have same_fit : Fits s1 D ↔ Fits s2 D := by
    rw [← exceedsCap_eq_false_iff_fits, ← exceedsCap_eq_false_iff_fits, buf, bufCap]
  by_cases fits : Fits s1 D
  · have appended : Agree s1.events s2.events { s1 with buf := s1.buf ++ D } { s2 with buf := s2.buf ++ D } :=
      ⟨congrArg (· ++ D) buf, miss, table, bufCap, [], by simp, by simp⟩
    have ended := appended.after_loop
    obtain ⟨evs, events1, events2⟩ := ended.events
    refine ⟨deliver D s1, deliver D s2, evs, rfl, rfl, ?_⟩
    rw [deliver_of_fits fits, deliver_of_fits (same_fit.1 fits)]
    exact ⟨events1, events2, ended.buf, ended.miss, ended.table, ended.result,
      fun _ => ⟨ended.kind, ended.cause, ended.phase⟩⟩
  · refine ⟨deliver D s1, deliver D s2, [], rfl, rfl, ?_⟩
    rw [deliver_of_not_fits fits, deliver_of_not_fits (mt same_fit.2 fits)]
    exact ⟨by simp, by simp, buf, miss, table, rfl, fun fits' => absurd fits' fits⟩

end Sys2Proof.Proofs
end

section
/-! PROOFS. One step and the stops (R33, R39 to R41, R92, R124): what `step` runs, and the operands outside the
bytes; with O2 and O28. -/

namespace Sys2Proof.Machine

/-- R39, R41: the request presented next is taken off and its operation run. -/
theorem step_of_decode_eq_ok {s : State} {r : Request} {rest : List Request} {i : Instr}
    (presented : s.pending = r :: rest) (decoded : decode r = .ok i) :
    step s = exec i (beginCommand rest s) := by
  simp only [step, presented, decoded]

/-- R124: with nothing presented the block holds its state. -/
theorem step_of_pending_eq_nil {s : State} (idle : s.pending = []) : step s = .next s := by
  simp only [step, idle]

/-- R80: fewer than four bytes have no length field. -/
theorem frameLength_eq_none_of_short {B : List Byte} (short : B.length < 4) : frameLength B = none := by
  cases hF : frameLength B with
  | none => rfl
  | some F =>
    obtain ⟨four, -, -⟩ := frameLength_eq_some B F hF
    omega

variable (s : State)

/-- R33, R80: `FLEN` does not read bytes 2 and 3 where they do not exist. -/
theorem exec_flen_of_short {B : List Byte} (short : B.length < 4) : exec (.flen B) s = .fault .readOutside := by
  rw [show exec (.flen B) s = execFlen B s from rfl, execFlen, frameLength_eq_none_of_short short]

/-- R33, R77: neither does `CKVALID`. -/
theorem exec_ckvalid_of_short {B : List Byte} (short : B.length < 4) :
    exec (.ckvalid B) s = .fault .readOutside := if_pos short

/-- R33, R73: `CRCPAIR` does not absorb bytes behind the last. -/
theorem exec_crcpair_of_beyond {B : List Byte} {F : Int} (beyond : (B.length : Int) < F) :
    exec (.crcpair B F) s = .fault .readOutside := if_pos beyond

/-- R92: `TRUNC` does not remove more than there is. -/
theorem exec_trunc_of_beyond {k : Nat} (beyond : s.buf.length < k) :
    exec (.trunc k) s = .fault .truncateOutside := if_pos beyond

end Sys2Proof.Machine

namespace Sys2Proof.Proofs

open Sys2Proof Sys2Proof.Machine

/-- Settles O2: the two branches of `step` on the requests presented. -/
theorem stepRunsTheDecodedOperation : Obligations.StepRunsTheDecodedOperation :=
  ⟨fun _ _ _ _ presented decoded => step_of_decode_eq_ok presented decoded,
    fun _ idle => step_of_pending_eq_nil idle⟩

/-- Settles O28, operation by operation. -/
theorem accessOutsideTheBytesStops : Obligations.AccessOutsideTheBytesStops :=
  ⟨fun s _ short => ⟨exec_flen_of_short s short, exec_ckvalid_of_short s short⟩,
    fun s _ _ beyond => exec_crcpair_of_beyond s beyond, fun s _ beyond => exec_trunc_of_beyond s beyond⟩

end Sys2Proof.Proofs
end

section
/-! PROOFS. The buffer is a run of the stream (R35, R36): an operation puts the bytes it brings at the back, and
otherwise only takes bytes off the front; with O53. -/

namespace Sys2Proof.Machine

/-! ### What the shared operations leave of the buffer -/

theorem missUpdate_buf_suffix (k : Kind) (s : State) : (missUpdate k s).1.buf <:+ s.buf := by
  rcases missUpdate_cases k s with ⟨-, h⟩ | ⟨-, -, h⟩ | ⟨-, -, h⟩
  · rw [h]
  · rw [h]; exact List.nil_suffix
  · rw [h]

theorem dispatch_buf_suffix (k : FrameKind) (s : State) : (dispatch k s).1.buf <:+ s.buf := by
  cases k with
  | batteryInfo => exact List.nil_suffix
  | chartDisplay => exact List.nil_suffix
  | chart =>
    rw [show dispatch .chart s = dispatchChart s from rfl]
    rcases dispatchChart_cases s with ⟨-, h⟩ | ⟨-, -, h⟩ | ⟨-, -, h⟩ <;> rw [h]
    · exact List.nil_suffix
    · exact List.nil_suffix
    · exact List.drop_suffix _ _

theorem deliverPass_buf_suffix (s : State) : (deliverPass s).1.buf <:+ s.buf := by
  rcases kind_eq_unknown_or_kindOf (classifyBuffer s).kind with hk | ⟨k, hk⟩
  · rw [deliverPass_of_unknown hk]
    exact missUpdate_buf_suffix .unknown (classifyBuffer s)
  · rw [deliverPass_of_kindOf hk]
    exact dispatch_buf_suffix k (determined s)

/-- R36: a delivery that fits leaves an end of the buffer with the batch behind it. -/
theorem deliver_buf_suffix {s : State} {D : List Byte} (fits : Fits s D) :
    (deliver D s).buf <:+ s.buf ++ D := by
  rw [deliver_of_fits fits]
  exact deliverLoop_keeps (Inv := fun u => u.buf <:+ s.buf ++ D)
    (fun u h => (deliverPass_buf_suffix u).trans h) List.suffix_rfl

/-! ### What an operation does to the buffer -/

/-- Whatever next state the operation answers, its buffer is an end of the one before. -/
def OnlyRemoves (i : Instr) : Prop := ∀ s t : State, exec i s = .next t → t.buf <:+ s.buf

theorem OnlyRemoves.of_next {i : Instr} (h : ∀ s, ∃ u, exec i s = .next u ∧ u.buf <:+ s.buf) :
    OnlyRemoves i := by
  intro s t ht
  obtain ⟨u, hu, suffix⟩ := h s
  rw [hu] at ht
  cases ht
  exact suffix

/-- An operation that stops on a condition and else answers `u` removes no more than `u` does. -/
theorem buf_suffix_of_guard_next {c : Prop} [Decidable c] {f : Fault} {u t : State} {B : List Byte}
    (h : (if c then .fault f else .next u : Host.Outcome State Fault Refusal) = .next t) (suffix : u.buf <:+ B) :
    t.buf <:+ B := by
  split at h
  · cases h
  · cases h
    exact suffix

theorem flen_onlyRemoves (B : List Byte) : OnlyRemoves (.flen B) := by
  intro s t h
  rw [show exec (.flen B) s = execFlen B s from rfl, execFlen] at h
  split at h <;> cases h
  exact List.suffix_rfl

theorem evRxDrop_onlyRemoves (n : Nat) : OnlyRemoves (.evRxDrop n) := by
  intro s t h
  rw [exec_evRxDrop] at h
  split at h <;> cases h
  exact List.suffix_rfl

theorem minlen_onlyRemoves (k : Kind) : OnlyRemoves (.minlen k) := by
  cases k <;> exact .of_next fun _ => ⟨_, rfl, List.suffix_rfl⟩

/-- R35, R36, R51: an operation delivers the bytes it brings, appends them, or brings none and removes at most. -/
theorem exec_moves_bytes (i : Instr) :
    (∀ s, exec i s = .next (deliver (arriving i) s)) ∨
    (∀ s, exec i s = .next (appendBatch (arriving i) s).1) ∨
    (arriving i = [] ∧ OnlyRemoves i) := by
  cases i with
  | deliver _ | frameBi _ | frameCh _ _ | frameCd _ => exact .inl fun _ => rfl
  | append _ => exact .inr (.inl fun _ => rfl)
  | reset | clear => exact .inr (.inr ⟨rfl, .of_next fun _ => ⟨_, rfl, List.nil_suffix⟩⟩)
  | tblgen | crcstep _ _ | sigbi _ | sigch _ | sigcd _ | trailer _ | classify _ | evFrameBi _ | evFrameChart _
  | evFrameCd | evRxClear => exact .inr (.inr ⟨rfl, .of_next fun _ => ⟨_, rfl, List.suffix_rfl⟩⟩)
  | missupd k => exact .inr (.inr ⟨rfl, .of_next fun s => ⟨_, rfl, missUpdate_buf_suffix k s⟩⟩)
  | crcpair _ _ | ckvalid _ =>
    exact .inr (.inr ⟨rfl, fun _ _ h => buf_suffix_of_guard_next h List.suffix_rfl⟩)
  | flen B => exact .inr (.inr ⟨rfl, flen_onlyRemoves B⟩)
  | minlen k => exact .inr (.inr ⟨rfl, minlen_onlyRemoves k⟩)
  | trunc k => exact .inr (.inr ⟨rfl, fun s _ h => buf_suffix_of_guard_next h (List.drop_suffix k s.buf)⟩)
  | dispatch k => exact .inr (.inr ⟨rfl, fun s _ h => buf_suffix_of_guard_next h (dispatch_buf_suffix k s)⟩)
  | evRxDrop n => exact .inr (.inr ⟨rfl, evRxDrop_onlyRemoves n⟩)

/-- R35, R36, R91: an operation leaves an end of the buffer with the arriving bytes behind it, or, where those do not
fit, the buffer as it was. -/
theorem exec_buf_suffix_or_refused {i : Instr} {s t : State} (h : exec i s = .next t) :
    t.buf <:+ s.buf ++ arriving i ∨ (¬ Fits s (arriving i) ∧ t.buf = s.buf) := by
  rcases exec_moves_bytes i with delivers | appends | ⟨none_arrive, removes⟩
  · rw [delivers] at h
    cases h
    by_cases fits : Fits s (arriving i)
    · exact .inl (deliver_buf_suffix fits)
    · exact .inr ⟨fits, by rw [deliver_of_not_fits fits]⟩
  · rw [appends] at h
    cases h
    by_cases fits : Fits s (arriving i)
    · exact .inl (by rw [appendBatch_of_fits fits])
    · exact .inr ⟨fits, by rw [appendBatch_of_not_fits fits]⟩
  · rw [none_arrive, List.append_nil]
    exact .inl (removes s t h)

end Sys2Proof.Machine

namespace Sys2Proof.Proofs

open Sys2Proof Sys2Proof.Machine

/-- Settles O53: an end of a list is the list less a run at the front. -/
theorem bufferIsAContiguousRunOfTheStream : Obligations.BufferIsAContiguousRunOfTheStream := by
  intro i s t h
  rcases exec_buf_suffix_or_refused h with suffix | refused
  · exact .inl ⟨_, List.suffix_iff_eq_drop.1 suffix⟩
  · exact .inr refused

end Sys2Proof.Proofs
end

section
/-! PROOFS. Where the bytes of a delivery go (R24, R36, R96 to R105): pass by pass, each byte is of a consumed Chart
frame or of a rest that `RESULT` disposes of; with O40. -/

namespace Sys2Proof.Machine

/-! ### Accounting -/

/-- What became of the bytes behind the consumed `frames`, by `RESULT`, with `buf` the buffer afterwards and `tail`
the events behind those of the frames (R105). -/
def RestDisposed (frames : List (List Byte)) (tail : List Event) (rest buf : List Byte) : Result → Prop
  | .idle => False
  | .decoded => buf = [] ∧
      ((tail = [] ∧ rest = [] ∧ frames ≠ []) ∨ tail = [.frameBi rest] ∨ tail = [.frameCd])
  | .waiting => buf = rest ∧ tail = []
  | .desync => buf = [] ∧ tail = [.rxClear] ∧ frames = []
  | .partialDiscard => buf = [] ∧ tail = []
  | .refused => False

/-- Between `s` and `t` the bytes of the buffer went to `frames` and `rest`. That recovery needs a third miss is what
keeps it from a pass behind a consumed frame, which resets the counter (R98). -/
structure Accounts (s t : State) (frames : List (List Byte)) (tail : List Event) (rest : List Byte) : Prop where
  bytes : s.buf = frames.flatten ++ rest
  events : t.events = s.events ++ eventsOf frames tail
  disposed : RestDisposed frames tail rest t.buf t.result
  third_miss : t.result = .desync → s.miss + 1 = 3

theorem eventsOf_cons (f : List Byte) (frames : List (List Byte)) (tail : List Event) :
    eventsOf (f :: frames) tail = [.frameChart f, .rxDrop f.length] ++ eventsOf frames tail := by
  simp [eventsOf]

/-- Only recovery excludes a consumed frame. -/
theorem RestDisposed.cons {frames : List (List Byte)} {tail : List Event} {rest buf : List Byte} {r : Result}
    (h : RestDisposed frames tail rest buf r) (not_desync : r ≠ .desync) (f : List Byte) :
    RestDisposed (f :: frames) tail rest buf r := by
  cases r with
  | desync => exact absurd rfl not_desync
  | decoded =>
    obtain ⟨emptied, ⟨no_tail, no_rest, -⟩ | handed⟩ := h
    · exact ⟨emptied, .inl ⟨no_tail, no_rest, List.cons_ne_nil f frames⟩⟩
    · exact ⟨emptied, .inr handed⟩
  | idle | waiting | partialDiscard | refused => exact h

/-! ### One pass -/

/-- R98: a miss keeps every byte, or discards every byte with `RX_CLEAR`. -/
theorem missUpdate_unknown_accounts (s : State) :
    ∃ tail, Accounts s (missUpdate .unknown s).1 [] tail s.buf := by
  rcases missUpdate_cases .unknown s with ⟨h0, -⟩ | ⟨-, third, h⟩ | ⟨-, -, h⟩
  · exact absurd rfl h0
  · rw [h]
    exact ⟨[.rxClear], rfl, rfl, ⟨rfl, rfl, rfl⟩, fun _ => third⟩
  · rw [h]
    exact ⟨[], rfl, by simp [eventsOf], ⟨rfl, rfl⟩, nofun⟩

/-- R100, R101, R102: a dispatch that stops hands every byte over, clears every byte, or has consumed a frame that was
the whole buffer. -/
theorem dispatch_stop_accounts {k : FrameKind} {s s' : State} (h : dispatch k s = (s', .stop)) :
    ∃ frames tail rest, Accounts s s' frames tail rest := by
  cases k with
  | batteryInfo =>
    cases h
    exact ⟨[], [.frameBi s.buf], s.buf, rfl, rfl, ⟨rfl, .inr (.inl rfl)⟩, nofun⟩
  | chartDisplay =>
    cases h
    exact ⟨[], [.frameCd], s.buf, rfl, rfl, ⟨rfl, .inr (.inr rfl)⟩, nofun⟩
  | chart =>
    rw [show dispatch .chart s = dispatchChart s from rfl] at h
    rcases dispatchChart_cases s with ⟨-, hd⟩ | ⟨whole, last, hd⟩ | ⟨-, -, hd⟩ <;> rw [hd] at h <;> cases h
    · exact ⟨[], [], s.buf, rfl, by simp [eventsOf], ⟨rfl, rfl⟩, nofun⟩
    · have all : (s.len + 2).toNat = s.buf.length := by
        have := List.drop_eq_nil_iff.1 last
        omega
      refine ⟨[s.buf], [], [], by simp, ?_, ⟨rfl, .inl ⟨rfl, rfl, by simp⟩⟩, nofun⟩
      simp [all, eventsOf]

theorem deliverPass_stop_accounts {s s' : State} (h : deliverPass s = (s', .stop)) :
    ∃ frames tail rest, Accounts s s' frames tail rest := by
  rcases kind_eq_unknown_or_kindOf (classifyBuffer s).kind with hk | ⟨k, hk⟩
  · rw [deliverPass_of_unknown hk] at h
    obtain rfl : (missUpdate .unknown (classifyBuffer s)).1 = s' := congrArg Prod.fst h
    obtain ⟨tail, bytes, events, disposed, third_miss⟩ := missUpdate_unknown_accounts (classifyBuffer s)
    exact ⟨[], tail, s.buf, bytes, events, disposed, third_miss⟩
  · rw [deliverPass_of_kindOf hk] at h
    obtain ⟨frames, tail, rest, bytes, events, disposed, third_miss⟩ := dispatch_stop_accounts h
    have not_desync : s'.result ≠ .desync := fun desync => absurd (third_miss desync) (by simp [determined])
    exact ⟨frames, tail, rest, bytes, events, disposed, fun desync => absurd desync not_desync⟩

/-- R103: behind a pass that goes on, the account is that of the remainder with the consumed frame in front. -/
theorem Accounts.of_proceed {s s' t : State} {frames : List (List Byte)} {tail : List Event} {rest : List Byte}
    (goes_on : deliverPass s = (s', .proceed)) (h : Accounts s' t frames tail rest) :
    ∃ f, Accounts s t (f :: frames) tail rest := by
  obtain ⟨n, -, within, -, remainder, counter_reset, -, -, consumed, -⟩ := deliverPass_proceed s s' goes_on
  have not_desync : t.result ≠ .desync := fun desync => absurd (h.third_miss desync) (by simp [counter_reset])
  have length : (s.buf.take n).length = n := List.length_take_of_le within.le
  refine ⟨s.buf.take n, ?_, ?_, h.disposed.cons not_desync _, fun desync => absurd desync not_desync⟩
  · calc s.buf = s.buf.take n ++ s'.buf := by rw [remainder, List.take_append_drop]
      _ = (s.buf.take n :: frames).flatten ++ rest := by rw [h.bytes, List.flatten_cons, List.append_assoc]
  · rw [h.events, consumed, eventsOf_cons, length, List.append_assoc]

/-! ### The loop -/

theorem deliverLoop_accounts (s : State) :
    ∃ frames tail rest, Accounts s (deliverLoop (s.buf.length + 1) s) frames tail rest := by
  refine deliverLoop_induct (fun s t => ∃ frames tail rest, Accounts s t frames tail rest)
    (fun s s' stops => deliverPass_stop_accounts stops) ?_ s
  rintro s s' t goes_on ⟨frames, tail, rest, remainder⟩
  obtain ⟨f, whole⟩ := remainder.of_proceed goes_on
  exact ⟨f :: frames, tail, rest, whole⟩

end Sys2Proof.Machine

namespace Sys2Proof.Proofs

open Sys2Proof Sys2Proof.Machine

/-- Settles O40: a delivery that fits is the loop on the buffer with the batch behind it. -/
theorem deliverAccountsForEveryByte : Obligations.DeliverAccountsForEveryByte := by
  intro s D fits
  obtain ⟨frames, tail, rest, bytes, events, disposed, -⟩ := deliverLoop_accounts { s with buf := s.buf ++ D }
  refine ⟨deliver D s, frames, tail, rest, rfl, bytes, ?_, ?_⟩ <;> rw [deliver_of_fits fits]
  · exact events
  · exact disposed

end Sys2Proof.Proofs
end

section
/-! PROOFS. The encoding (R50 to R57): each row's reading of operand bytes accepts exactly what the encoder writes for
its operations, and so does the reading of wire bytes; with O1, O3, O4 and O5. -/

namespace Sys2Proof

/-! ### Byte order (R30) -/

theorem le16_toNat (lo hi : Byte) : (le16 lo hi).toNat = lo.toNat + 256 * hi.toNat := by
  have hlo := lo.isLt
  have hhi := hi.isLt
  have low : lo.toNat % 2 ^ 16 = lo.toNat := Nat.mod_eq_of_lt (by omega)
  have high : hi.toNat % 2 ^ 16 = hi.toNat := Nat.mod_eq_of_lt (by omega)
  have shifted : hi.toNat <<< 8 % 2 ^ 16 = hi.toNat <<< 8 := Nat.mod_eq_of_lt (by omega)
  calc (le16 lo hi).toNat = lo.toNat ||| hi.toNat <<< 8 := by
        simp only [le16, BitVec.toNat_or, BitVec.toNat_shiftLeft, BitVec.toNat_setWidth, low, high, shifted]
    _ = hi.toNat <<< 8 + lo.toNat := by rw [Nat.or_comm, Nat.shiftLeft_add_eq_or_of_lt hlo]
    _ = lo.toNat + 256 * hi.toNat := by omega

@[simp] theorem le16_truncate (w : Word16) : le16 (w.truncate 8) ((w >>> 8).truncate 8) = w := by
  apply BitVec.eq_of_toNat_eq
  rw [le16_toNat]
  simp [Nat.shiftRight_eq_div_pow]
  omega

@[simp] theorem le16Bytes_le16 (lo hi : Byte) : le16Bytes (le16 lo hi) = [lo, hi] := by
  have value := le16_toNat lo hi
  have hlo := lo.isLt
  have hhi := hi.isLt
  simp only [le16Bytes, List.cons.injEq, and_true]
  constructor <;> apply BitVec.eq_of_toNat_eq <;> simp [value, Nat.shiftRight_eq_div_pow] <;> omega

/-! ### Operand bytes, row by row -/

theorem parseNone_eq_ok_iff {code : Byte} {i j : Instr} {bytes : List Byte} :
    parseNone code i bytes = .ok j ↔ j = i ∧ bytes = [] := by
  cases bytes <;> simp [parseNone, eq_comm]

theorem parseFourOrMore_eq_ok_iff {code : Byte} {mk : List Byte → Instr} {j : Instr} {bytes : List Byte} :
    parseFourOrMore code mk bytes = .ok j ↔ 4 ≤ bytes.length ∧ j = mk bytes := by
  by_cases four : 4 ≤ bytes.length <;> simp [parseFourOrMore, four, eq_comm]

/-- R19: a kind is read from its own byte alone. -/
theorem kindOfByte_eq_some_iff {b : Byte} {k : Kind} : kindOfByte b = some k ↔ b = kindByte k := by
  constructor
  · intro h
    exact (eq_of_beq (List.find?_some (p := fun k => (kindCode k).zeroExtend 8 == b) h)).symm
  · rintro rfl
    cases k <;> rfl

theorem frameKindOfByte_eq_some_iff {b : Byte} {k : FrameKind} :
    frameKindOfByte b = some k ↔ b = frameKindByte k := by
  constructor
  · intro h
    exact (eq_of_beq (List.find?_some (p := fun k => (frameKindCode k).zeroExtend 8 == b) h)).symm
  · rintro rfl
    cases k <;> rfl

theorem parseKind_eq_ok_iff {code : Byte} {mk : Kind → Instr} {j : Instr} {bytes : List Byte} :
    parseKind code mk bytes = .ok j ↔ ∃ k, j = mk k ∧ bytes = [kindByte k] := by
  constructor
  · intro h
    unfold parseKind at h
    split at h
    next => cases h
    next b =>
      split at h
      next k hk => cases h; exact ⟨k, rfl, by rw [kindOfByte_eq_some_iff.1 hk]⟩
      next => cases h
    next => cases h
  · rintro ⟨k, rfl, rfl⟩
    simp only [parseKind, kindOfByte_eq_some_iff.2 rfl]

theorem parseFrameKind_eq_ok_iff {code : Byte} {mk : FrameKind → Instr} {j : Instr} {bytes : List Byte} :
    parseFrameKind code mk bytes = .ok j ↔ ∃ k, j = mk k ∧ bytes = [frameKindByte k] := by
  constructor
  · intro h
    unfold parseFrameKind at h
    split at h
    next => cases h
    next b =>
      split at h
      next k hk => cases h; exact ⟨k, rfl, by rw [frameKindOfByte_eq_some_iff.1 hk]⟩
      next => cases h
    next => cases h
  · rintro ⟨k, rfl, rfl⟩
    simp only [parseFrameKind, frameKindOfByte_eq_some_iff.2 rfl]

theorem parseCount_eq_ok_iff {code : Byte} {mk : Nat → Instr} {j : Instr} {bytes : List Byte} :
    parseCount code mk bytes = .ok j ↔ ∃ n, j = mk n ∧ bytes = countBytes n := by
  constructor
  · exact parseCount_eq_ok code mk bytes j
  · rintro ⟨n, rfl, rfl⟩
    exact parseCount_countBytes code mk n

theorem parseCrcStep_eq_ok_iff {code : Byte} {j : Instr} {bytes : List Byte} :
    parseCrcStep code bytes = .ok j ↔ ∃ crc b, j = .crcstep crc b ∧ bytes = le16Bytes crc ++ [b] := by
  constructor
  · intro h
    unfold parseCrcStep at h
    split at h
    next lo hi b => cases h; exact ⟨le16 lo hi, b, rfl, by simp⟩
    all_goals cases h
  · rintro ⟨crc, b, rfl, rfl⟩
    simp [le16Bytes, parseCrcStep]

/-- R52: `RX_DROP` takes the counts of its range, and no other. -/
theorem parseDrop_eq_ok_iff {code : Byte} {j : Instr} {bytes : List Byte} :
    parseDrop code bytes = .ok j ↔ ∃ n, (Instr.evRxDrop n).wf = true ∧ j = .evRxDrop n ∧
      bytes = le16Bytes (BitVec.ofNat 16 (n - 4)) := by
  constructor
  · intro h
    have wf := parseDrop_wf code bytes j h
    unfold parseDrop at h
    split at h
    next lo hi =>
      split at h
      next => cases h; exact ⟨_, wf, rfl, by simp⟩
      next => cases h
    all_goals cases h
  · rintro ⟨n, wf, rfl, rfl⟩
    simp only [Instr.wf, Bool.and_eq_true, decide_eq_true_eq] at wf
    obtain ⟨low, high⟩ := wf
    have value : (n - 4) % 65536 + 4 = n := by omega
    simp only [le16Bytes, parseDrop, le16_truncate, BitVec.toNat_ofNat, Nat.reducePow, value, if_pos high]

/-- R16, R73: `CRCPAIR` takes the lengths of `LEN` that the bytes have. -/
theorem parseCrcPair_eq_ok_iff {code : Byte} {j : Instr} {bytes : List Byte} :
    parseCrcPair code bytes = .ok j ↔ ∃ B F, (Instr.crcpair B F).wf = true ∧ j = .crcpair B F ∧
      bytes = le16Bytes (BitVec.ofNat 16 (F + 2).toNat) ++ B := by
  constructor
  · intro h
    have wf := parseCrcPair_wf code bytes j h
    unfold parseCrcPair at h
    split at h
    next lo hi B =>
      split at h
      next => cases h; exact ⟨B, _, wf, rfl, by simp⟩
      next => cases h
    all_goals cases h
  · rintro ⟨B, F, wf, rfl, rfl⟩
    simp only [Instr.wf, Bool.and_eq_true, decide_eq_true_eq] at wf
    obtain ⟨⟨low, high⟩, within⟩ := wf
    have value : (((F + 2).toNat % 65536 : Nat) : Int) - 2 = F := by omega
    simp only [le16Bytes, List.cons_append, List.nil_append, parseCrcPair, le16_truncate, BitVec.toNat_ofNat,
      Nat.reducePow, value, if_pos within]

/-! ### Rows -/

/-- A request that presents these operand bytes with this code. -/
def PresentedAs (code : Byte) (operand : List Byte) (r : Request) : Prop :=
  r = .port code operand ∨ r = .trace code operand

/-- What a row's reading accepts, the encoder presents with the row's code and the very bytes read. -/
def RowEncodesBack (r : OpRow) : Prop := ∀ bytes i, r.parse bytes = .ok i → PresentedAs r.code bytes (encode i)

theorem RowEncodesBack.of_none {code : Byte} {i : Instr} (h : PresentedAs code [] (encode i)) :
    RowEncodesBack ⟨code, parseNone code i⟩ := by
  intro bytes j parsed
  obtain ⟨rfl, rfl⟩ := parseNone_eq_ok_iff.1 parsed
  exact h

theorem RowEncodesBack.of_bytes {code : Byte} {mk : List Byte → Instr}
    (h : ∀ bytes, PresentedAs code bytes (encode (mk bytes))) : RowEncodesBack ⟨code, parseBytes mk⟩ := by
  intro bytes j parsed
  cases parsed
  exact h bytes

theorem RowEncodesBack.of_fourOrMore {code : Byte} {mk : List Byte → Instr}
    (h : ∀ bytes, PresentedAs code bytes (encode (mk bytes))) : RowEncodesBack ⟨code, parseFourOrMore code mk⟩ := by
  intro bytes j parsed
  obtain ⟨-, rfl⟩ := parseFourOrMore_eq_ok_iff.1 parsed
  exact h bytes

theorem RowEncodesBack.of_kind {code : Byte} {mk : Kind → Instr}
    (h : ∀ k, PresentedAs code [kindByte k] (encode (mk k))) : RowEncodesBack ⟨code, parseKind code mk⟩ := by
  intro bytes j parsed
  obtain ⟨k, rfl, rfl⟩ := parseKind_eq_ok_iff.1 parsed
  exact h k

theorem dispatch_encodesBack : RowEncodesBack ⟨0x41, parseFrameKind 0x41 .dispatch⟩ := by
  intro bytes j parsed
  obtain ⟨k, rfl, rfl⟩ := parseFrameKind_eq_ok_iff.1 parsed
  exact .inr rfl

theorem trunc_encodesBack : RowEncodesBack ⟨0x31, parseCount 0x31 .trunc⟩ := by
  intro bytes j parsed
  obtain ⟨n, rfl, rfl⟩ := parseCount_eq_ok_iff.1 parsed
  exact .inr rfl

theorem crcstep_encodesBack : RowEncodesBack ⟨0x11, parseCrcStep 0x11⟩ := by
  intro bytes j parsed
  obtain ⟨crc, b, rfl, rfl⟩ := parseCrcStep_eq_ok_iff.1 parsed
  exact .inr rfl

theorem crcpair_encodesBack : RowEncodesBack ⟨0x12, parseCrcPair 0x12⟩ := by
  intro bytes j parsed
  obtain ⟨B, F, -, rfl, rfl⟩ := parseCrcPair_eq_ok_iff.1 parsed
  exact .inr rfl

theorem rxDrop_encodesBack : RowEncodesBack ⟨0x90, parseDrop 0x90⟩ := by
  intro bytes j parsed
  obtain ⟨n, -, rfl, rfl⟩ := parseDrop_eq_ok_iff.1 parsed
  exact .inr rfl

theorem opTable_encodesBack : ∀ r ∈ opTable, RowEncodesBack r := by
  simp only [opTable, List.cons_append, List.nil_append, List.forall_mem_cons]
  exact ⟨.of_none (.inl rfl), .of_bytes fun _ => .inl rfl, .of_none (.inr rfl), crcstep_encodesBack,
    crcpair_encodesBack, .of_fourOrMore fun _ => .inr rfl, .of_fourOrMore fun _ => .inr rfl,
    .of_kind fun _ => .inr rfl, .of_bytes fun _ => .inr rfl, .of_bytes fun _ => .inr rfl,
    .of_bytes fun _ => .inr rfl, .of_bytes fun _ => .inr rfl, .of_bytes fun _ => .inr rfl,
    .of_bytes fun _ => .inr rfl, trunc_encodesBack, .of_none (.inr rfl), .of_kind fun _ => .inr rfl,
    dispatch_encodesBack, .of_bytes fun _ => .inr rfl, .of_bytes fun _ => .inr rfl, .of_none (.inr rfl),
    rxDrop_encodesBack, .of_none (.inr rfl), nofun⟩

/-- R50, R52: the encoder presents an operation read by its code with that code and those operand bytes. -/
theorem encode_of_decodeOp {code : Byte} {operand : List Byte} {i : Instr} (h : decodeOp code operand = .ok i) :
    PresentedAs code operand (encode i) := by
  unfold decodeOp at h
  split at h
  next r found =>
    obtain rfl : r.code = code := eq_of_beq (List.find?_some (p := fun r : OpRow => r.code == code) found)
    exact opTable_encodesBack r (List.mem_of_find?_eq_some found) operand i h
  next => cases h

/-! ### Wire bytes (R53, R54) -/

theorem decodeFrame_sigBiBytes (tail : List Byte) : decodeFrame (sigBiBytes ++ tail) = .ok (.frameBi tail) := rfl

theorem decodeFrame_chartHeader (L : Word16) (rest : List Byte) :
    decodeFrame (chartHeader L ++ rest) = .ok (.frameCh L rest) := by
  simp [chartHeader, le16Bytes, decodeFrame]

theorem decodeFrame_sigCdBytes (rest : List Byte) : decodeFrame (sigCdBytes ++ rest) = .ok (.frameCd rest) := rfl

/-- R53: the encoder gives back the wire bytes a frame format was read from. -/
theorem encode_of_decodeFrame {bytes : List Byte} {i : Instr} (h : decodeFrame bytes = .ok i) :
    encode i = .push bytes := by
  unfold decodeFrame at h
  split at h
  next b0 b1 b2 b3 b4 tail =>
    split at h
    next signature =>
      cases h
      cases signature
      rfl
    next =>
      split at h
      next b5 rest =>
        split at h
        next signature =>
          cases h
          cases signature
          simp [encode, chartHeader]
        next =>
          split at h
          next signature => cases h; cases signature; rfl
          next => cases h
      next => cases h
  next => cases h

theorem decodeFrame_wf {bytes : List Byte} {i : Instr} (h : decodeFrame bytes = .ok i) : i.wf = true := by
  rcases decodeFrame_cases h with ⟨_, rfl⟩ | ⟨_, _, rfl⟩ | ⟨_, rfl⟩ <;> rfl

/-! ### Requests -/

/-- R51, R53: pushed bytes that begin with a signature are read as that format. -/
theorem decode_push_of_decodeFrame {bytes : List Byte} {i : Instr} (h : decodeFrame bytes = .ok i) :
    decode (.push bytes) = .ok i := by
  simp only [decode, h]

/-- R57: at the port a code other than the two commands' is reserved, whatever stands behind it. -/
theorem decode_port_of_reserved {code : Byte} (not_reset : code ≠ 0x00) (not_deliver : code ≠ 0x01)
    (operand : List Byte) : decode (.port code operand) = .error (.reservedCode code) := by
  have no_command : isCommandCode code = false := by
    simp only [isCommandCode, Bool.or_eq_false_iff, beq_eq_false_iff_ne]
    exact ⟨not_reset, not_deliver⟩
  simp [decode, no_command]

/-- R50 to R53: what the encoder writes for an operation with operands the spec allows is read as that operation. -/
theorem decode_encode {i : Instr} (wf : i.wf = true) : decode (encode i) = .ok i := by
  cases i with
  | reset | deliver _ => rfl
  | tblgen | sigbi _ | sigch _ | sigcd _ | trailer _ | classify _ | append _ | clear | evFrameBi _
  | evFrameChart _ | evFrameCd | evRxClear => rfl
  | crcstep crc byte => exact (parseCrcStep_eq_ok_iff (code := 0x11)).2 ⟨crc, byte, rfl, rfl⟩
  | crcpair B F => exact (parseCrcPair_eq_ok_iff (code := 0x12)).2 ⟨B, F, wf, rfl, rfl⟩
  | ckvalid B => exact (parseFourOrMore_eq_ok_iff (code := 0x13)).2 ⟨of_decide_eq_true wf, rfl⟩
  | flen B => exact (parseFourOrMore_eq_ok_iff (code := 0x20)).2 ⟨of_decide_eq_true wf, rfl⟩
  | minlen k => exact (parseKind_eq_ok_iff (code := 0x21)).2 ⟨k, rfl, rfl⟩
  | missupd k => exact (parseKind_eq_ok_iff (code := 0x40)).2 ⟨k, rfl, rfl⟩
  | dispatch k => exact (parseFrameKind_eq_ok_iff (code := 0x41)).2 ⟨k, rfl, rfl⟩
  | trunc n => exact parseCount_countBytes 0x31 .trunc n
  | evRxDrop n => exact (parseDrop_eq_ok_iff (code := 0x90)).2 ⟨n, wf, rfl, rfl⟩
  | frameBi tail => exact decode_push_of_decodeFrame (decodeFrame_sigBiBytes tail)
  | frameCh L rest => exact decode_push_of_decodeFrame (decodeFrame_chartHeader L rest)
  | frameCd rest => exact decode_push_of_decodeFrame (decodeFrame_sigCdBytes rest)

end Sys2Proof

namespace Sys2Proof.Machine

/-- R57: a reserved code at the port runs nothing and sets `FAULT.ILLCMD`. -/
theorem step_of_reserved_code {s : State} {code : Byte} {operand : List Byte} {rest : List Request}
    (presented : s.pending = .port code operand :: rest) (not_reset : code ≠ 0x00) (not_deliver : code ≠ 0x01) :
    step s = .next { beginCommand rest s with fault := setIllCmd s.fault } := by
  simp only [step, presented, decode_port_of_reserved not_reset not_deliver operand]
  rfl

end Sys2Proof.Machine

namespace Sys2Proof.Proofs

open Sys2Proof Sys2Proof.Machine

/-- Settles O3, operation by operation. -/
theorem encodeThenDecodeIsIdentity : Obligations.EncodeThenDecodeIsIdentity := fun _ wf => decode_encode wf

/-- Settles O4, row by row of the code table and format by format of the wire. -/
theorem decodeThenEncodeIsIdentity : Obligations.DecodeThenEncodeIsIdentity :=
  ⟨fun _ _ _ h => ⟨decodeOp_wf h, encode_of_decodeOp h⟩, fun _ _ h => ⟨decodeFrame_wf h, encode_of_decodeFrame h⟩⟩

/-- Settles O1, word by word. -/
theorem tableWordsDecodeToTheirOperations : Obligations.TableWordsDecodeToTheirOperations := by
  refine ⟨?_, ?_, ?_, ?_, ?_, ?_, ?_, ?_, ?_, ?_, ?_, ?_⟩ <;> decide

/-- Settles O5: the two commands of the port, and the one effect of every other code. -/
theorem reservedPortCodeOnlySetsIllCmd : Obligations.ReservedPortCodeOnlySetsIllCmd :=
  ⟨decode_encode (i := .reset) rfl, fun D => decode_encode (i := .deliver D) rfl,
    fun _ _ _ _ presented not_reset not_deliver => step_of_reserved_code presented not_reset not_deliver⟩

end Sys2Proof.Proofs
end

section
/-! PROOFS. The signature tests (R54, R82 to R84): byte by byte, as match and mask, and one against another; with
O6. -/

namespace Sys2Proof.Machine

/-! ### Bytes -/

@[simp] theorem byteIs_zero_cons (b v : Byte) (B : List Byte) : byteIs (b :: B) 0 v = true ↔ b = v := by
  simp [byteIs, memRead1]

@[simp] theorem byteIs_succ_cons (b v : Byte) (B : List Byte) (a : Nat) :
    byteIs (b :: B) (a + 1) v = byteIs B a v := rfl

theorem byteIs_unique {B : List Byte} {a : Nat} {v w : Byte} (hv : byteIs B a v = true) (hw : byteIs B a w = true) :
    v = w := by
  simp only [byteIs, beq_iff_eq] at hv hw
  exact Option.some.inj (hv.symm.trans hw)

/-! ### The tests, byte by byte -/

theorem sigBi_iff (B : List Byte) : sigBi B = true ↔ 5 ≤ B.length ∧ byteIs B 0 0x00 = true ∧ byteIs B 1 0x24 = true ∧
    byteIs B 2 0x24 = true ∧ byteIs B 3 0xFF = true ∧ byteIs B 4 0xFE = true := by
  simp only [sigBi, Bool.and_eq_true, decide_eq_true_eq, and_assoc]

theorem sigCh_iff (B : List Byte) : sigCh B = true ↔ 6 ≤ B.length ∧ byteIs B 0 0x24 = true ∧ byteIs B 1 0x24 = true ∧
    byteIs B 4 0xFF = true ∧ byteIs B 5 0x01 = true := by
  simp only [sigCh, Bool.and_eq_true, decide_eq_true_eq, and_assoc]

theorem sigCd_iff (B : List Byte) : sigCd B = true ↔ 6 ≤ B.length ∧ byteIs B 0 0x24 = true ∧ byteIs B 1 0x24 = true ∧
    byteIs B 2 0x0A = true ∧ byteIs B 3 0x00 = true ∧ byteIs B 4 0xFF = true ∧ byteIs B 5 0x02 = true := by
  simp only [sigCd, Bool.and_eq_true, decide_eq_true_eq, and_assoc]

theorem sigBi_of_short {B : List Byte} (short : B.length < 5) : sigBi B = false := by
  refine Bool.eq_false_iff.2 fun signature => ?_
  obtain ⟨five, -⟩ := (sigBi_iff B).1 signature
  omega

theorem sigCh_of_short {B : List Byte} (short : B.length < 6) : sigCh B = false := by
  refine Bool.eq_false_iff.2 fun signature => ?_
  obtain ⟨six, -⟩ := (sigCh_iff B).1 signature
  omega

theorem sigCd_of_short {B : List Byte} (short : B.length < 6) : sigCd B = false := by
  refine Bool.eq_false_iff.2 fun signature => ?_
  obtain ⟨six, -⟩ := (sigCd_iff B).1 signature
  omega

/-! ### One against another -/

/-- Byte 0 tells BatteryInfo from Chart. -/
theorem not_sigBi_and_sigCh (B : List Byte) : ¬ (sigBi B = true ∧ sigCh B = true) := by
  rintro ⟨bi, ch⟩
  obtain ⟨-, bi0, -⟩ := (sigBi_iff B).1 bi
  obtain ⟨-, ch0, -⟩ := (sigCh_iff B).1 ch
  exact absurd (byteIs_unique bi0 ch0) (by decide)

/-- Byte 0 tells BatteryInfo from ChartDisplay. -/
theorem not_sigBi_and_sigCd (B : List Byte) : ¬ (sigBi B = true ∧ sigCd B = true) := by
  rintro ⟨bi, cd⟩
  obtain ⟨-, bi0, -⟩ := (sigBi_iff B).1 bi
  obtain ⟨-, cd0, -⟩ := (sigCd_iff B).1 cd
  exact absurd (byteIs_unique bi0 cd0) (by decide)

/-- Byte 5 tells Chart from ChartDisplay. -/
theorem not_sigCh_and_sigCd (B : List Byte) : ¬ (sigCh B = true ∧ sigCd B = true) := by
  rintro ⟨ch, cd⟩
  obtain ⟨-, -, -, -, ch5⟩ := (sigCh_iff B).1 ch
  obtain ⟨-, -, -, -, -, -, cd5⟩ := (sigCd_iff B).1 cd
  exact absurd (byteIs_unique ch5 cd5) (by decide)

/-! ### Match and mask (R54) -/

theorem append_eq_append_iff {m n : Nat} {x x' : BitVec m} {y y' : BitVec n} :
    x ++ y = x' ++ y' ↔ x = x' ∧ y = y' := by
  constructor
  · intro h
    obtain rfl : y = y' := by
      simpa only [BitVec.setWidth_append_eq_right] using congrArg (BitVec.setWidth n) h
    exact ⟨(BitVec.append_left_inj y).1 h, rfl⟩
  · rintro ⟨rfl, rfl⟩
    rfl

/-- A match and mask test of six bytes is one of each byte. -/
theorem firstSix_and_eq_iff (b0 b1 b2 b3 b4 b5 m0 m1 m2 m3 m4 m5 c0 c1 c2 c3 c4 c5 : Byte) :
    firstSix b0 b1 b2 b3 b4 b5 &&& firstSix m0 m1 m2 m3 m4 m5 = firstSix c0 c1 c2 c3 c4 c5 ↔
      b0 &&& m0 = c0 ∧ b1 &&& m1 = c1 ∧ b2 &&& m2 = c2 ∧ b3 &&& m3 = c3 ∧ b4 &&& m4 = c4 ∧ b5 &&& m5 = c5 := by
  have bytewise : (b0 ++ b1 ++ b2 ++ b3 ++ b4 ++ b5) &&& (m0 ++ m1 ++ m2 ++ m3 ++ m4 ++ m5) =
      c0 ++ c1 ++ c2 ++ c3 ++ c4 ++ c5 ↔
      b0 &&& m0 = c0 ∧ b1 &&& m1 = c1 ∧ b2 &&& m2 = c2 ∧ b3 &&& m3 = c3 ∧ b4 &&& m4 = c4 ∧ b5 &&& m5 = c5 := by
    simp only [BitVec.and_append, append_eq_append_iff, and_assoc]
  exact bytewise

/-- A mask byte of ones tests the byte. -/
theorem and_0xFF (b : Byte) : b &&& 0xFF = b := BitVec.and_allOnes

section
variable (b0 b1 b2 b3 b4 b5 : Byte)

theorem matches_batteryInfo_iff :
    firstSix b0 b1 b2 b3 b4 b5 &&& 0xFFFFFFFFFF00 = 0x002424FFFE00 ↔
      b0 = 0x00 ∧ b1 = 0x24 ∧ b2 = 0x24 ∧ b3 = 0xFF ∧ b4 = 0xFE := by
  rw [show (0xFFFFFFFFFF00 : BitVec 48) = firstSix 0xFF 0xFF 0xFF 0xFF 0xFF 0x00 by decide,
    show (0x002424FFFE00 : BitVec 48) = firstSix 0x00 0x24 0x24 0xFF 0xFE 0x00 by decide, firstSix_and_eq_iff]
  simp only [and_0xFF, show b5 &&& 0x00 = 0x00 from BitVec.and_zero, and_true]

theorem matches_chart_iff :
    firstSix b0 b1 b2 b3 b4 b5 &&& 0xFFFF0000FFFF = 0x24240000FF01 ↔
      b0 = 0x24 ∧ b1 = 0x24 ∧ b4 = 0xFF ∧ b5 = 0x01 := by
  rw [show (0xFFFF0000FFFF : BitVec 48) = firstSix 0xFF 0xFF 0x00 0x00 0xFF 0xFF by decide,
    show (0x24240000FF01 : BitVec 48) = firstSix 0x24 0x24 0x00 0x00 0xFF 0x01 by decide, firstSix_and_eq_iff]
  simp only [and_0xFF, show b2 &&& 0x00 = 0x00 from BitVec.and_zero, show b3 &&& 0x00 = 0x00 from BitVec.and_zero,
    true_and]

theorem matches_chartDisplay_iff :
    firstSix b0 b1 b2 b3 b4 b5 &&& 0xFFFFFFFFFFFF = 0x24240A00FF02 ↔
      b0 = 0x24 ∧ b1 = 0x24 ∧ b2 = 0x0A ∧ b3 = 0x00 ∧ b4 = 0xFF ∧ b5 = 0x02 := by
  rw [show (0xFFFFFFFFFFFF : BitVec 48) = firstSix 0xFF 0xFF 0xFF 0xFF 0xFF 0xFF by decide,
    show (0x24240A00FF02 : BitVec 48) = firstSix 0x24 0x24 0x0A 0x00 0xFF 0x02 by decide, firstSix_and_eq_iff]
  simp only [and_0xFF]

variable (rest : List Byte)

/-- The sixth byte is not read, whether or not it is there. -/
theorem sigBi_cons_iff : sigBi (b0 :: b1 :: b2 :: b3 :: b4 :: rest) = true ↔
    firstSix b0 b1 b2 b3 b4 b5 &&& 0xFFFFFFFFFF00 = 0x002424FFFE00 := by
  rw [sigBi_iff, matches_batteryInfo_iff]
  simp

theorem sigCh_cons_iff : sigCh (b0 :: b1 :: b2 :: b3 :: b4 :: b5 :: rest) = true ↔
    firstSix b0 b1 b2 b3 b4 b5 &&& 0xFFFF0000FFFF = 0x24240000FF01 := by
  rw [sigCh_iff, matches_chart_iff]
  simp

theorem sigCd_cons_iff : sigCd (b0 :: b1 :: b2 :: b3 :: b4 :: b5 :: rest) = true ↔
    firstSix b0 b1 b2 b3 b4 b5 &&& 0xFFFFFFFFFFFF = 0x24240A00FF02 := by
  rw [sigCd_iff, matches_chartDisplay_iff]
  simp

end

end Sys2Proof.Machine

namespace Sys2Proof.Proofs

open Sys2Proof Sys2Proof.Machine

/-- Settles O6, clause by clause. -/
theorem signaturesAreMatchAndMask : Obligations.SignaturesAreMatchAndMask :=
  ⟨fun b0 b1 b2 b3 b4 b5 rest => ⟨sigBi_cons_iff b0 b1 b2 b3 b4 b5 (b5 :: rest),
      sigCh_cons_iff b0 b1 b2 b3 b4 b5 rest, sigCd_cons_iff b0 b1 b2 b3 b4 b5 rest⟩,
    fun b0 b1 b2 b3 b4 b5 => sigBi_cons_iff b0 b1 b2 b3 b4 b5 [],
    fun _ short => sigBi_of_short short,
    fun _ short => ⟨sigCh_of_short short, sigCd_of_short short⟩,
    fun B => ⟨not_sigBi_and_sigCh B, not_sigBi_and_sigCd B, not_sigCh_and_sigCd B⟩⟩

end Sys2Proof.Proofs
end

section
/-! PROOFS. The one ChartDisplay frame of ten bytes (R53): its six bytes before the checksum fix the two of the
checksum; with O20. -/

namespace Sys2Proof.Machine

/-! ### The device checksum does not read the checksum bytes (R73) -/

/-- From index `F - 2` on, an iteration leaves `ACC`. -/
theorem crcLoop_acc_of_uncovered {T : CrcTable} {F : Int} (bs : List Byte) {e : Engine} (uncovered : F - 2 ≤ e.idx) :
    (crcLoop T F bs e).acc = e.acc := by
  induction bs generalizing e with
  | nil => rfl
  | cons b bs ih =>
    have next_uncovered : F - 2 ≤ ((crcIteration T F e b).idx : Int) := by simp only [crcIteration]; omega
    have kept : (crcIteration T F e b).acc = e.acc := if_neg (by omega)
    exact (ih next_uncovered).trans kept

/-- Bytes at `F - 2` and behind do not count in the device checksum. -/
theorem crcPair_devck_append {T : CrcTable} {M : List Byte} {F : Int} (uncovered : F - 2 ≤ M.length) (N : List Byte)
    (e : Engine) : (crcPair T (M ++ N) F e).devck = (crcPair T M F e).devck := by
  have acc : ∀ e0 : Engine, e0.idx = 0 →
      (crcLoop T F ((M ++ N).take F.toNat) e0).acc = (crcLoop T F (M.take F.toNat) e0).acc := by
    intro e0 start
    rw [List.take_append, crcLoop_append]
    refine crcLoop_acc_of_uncovered _ ?_
    rw [crcLoop_idx, start, List.length_take]
    omega
  simp only [crcPair, acc]

/-! ### What a passed checksum test means -/

/-- R77: the bytes at `F - 2` and `F - 1` are the device checksum. -/
theorem receivedChecksum_of_ckValid {T : CrcTable} {B : List Byte} {eng : Engine} {len F : Int}
    (length : frameLength B = some F) (passed : (ckValid T B eng len).ok = true) :
    receivedChecksum B F = some (crcPair T B F eng).devck := by
  rcases ckValid_cases T B eng len with ⟨-, h⟩ | ⟨F', length', ⟨-, h⟩ | ⟨-, -, h⟩⟩
  · rw [h] at passed; cases passed
  · rw [h] at passed; cases passed
  · obtain rfl : F = F' := Option.some.inj (length.symm.trans length')
    simp only [h, Bool.and_eq_true, beq_iff_eq] at passed
    obtain ⟨-, received⟩ := passed
    exact received

/-! ### The frame -/

/-- Ten bytes with the ChartDisplay signature and the trailer leave two bytes between them. -/
theorem eq_append_of_sigCd_trailer {B : List Byte} (ten : B.length = 10) (signature : sigCd B = true)
    (trailer : trailerOk B = true) : ∃ lo hi, B = sigCdBytes ++ [lo, hi, 0x0D, 0x0A] := by
  match B, ten with
  | [b0, b1, b2, b3, b4, b5, lo, hi, b8, b9], _ =>
    obtain ⟨-, h0, h1, h2, h3, h4, h5⟩ := (sigCd_iff _).1 signature
    simp only [trailerOk, Bool.and_eq_true] at trailer
    obtain ⟨⟨-, h8⟩, h9⟩ := trailer
    simp only [byteIs_zero_cons, byteIs_succ_cons, List.length_cons, List.length_nil] at *
    exact ⟨lo, hi, by simp [*, sigCdBytes]⟩

/-- The six bytes of the signature have the device checksum `0x2FBE`. -/
theorem devck_sigCdBytes (e : Engine) : (crcPair builtTable sigCdBytes 8 e).devck = 0x2FBE := by
  obtain ⟨-, same⟩ := crcPair_results_eq builtTable sigCdBytes 8 e Engine.reset
  rw [same]
  decide +kernel

/-- R53: the one frame. -/
def chartDisplayFrame : List Byte := sigCdBytes ++ [0xBE, 0x2F, 0x0D, 0x0A]

theorem eq_chartDisplayFrame_of_classify {B : List Byte} {eng : Engine} {len : Int} (ten : B.length = 10)
    (verdict : (classify builtTable B eng len).kind = .chartDisplay) : B = chartDisplayFrame := by
  rcases classify_cases builtTable B eng len with ⟨h, -⟩ | ⟨h, -⟩ | ⟨h, -, -, trailer, length, -, -, passed⟩
  · rw [h] at verdict; cases verdict
  · rw [h] at verdict; cases verdict
  rcases h with ⟨h, -⟩ | ⟨-, -, signature⟩
  · rw [h] at verdict; cases verdict
  obtain ⟨lo, hi, rfl⟩ := eq_append_of_sigCd_trailer ten signature trailer
  have eight : (classify builtTable (sigCdBytes ++ [lo, hi, 0x0D, 0x0A]) eng len).len = 8 :=
    (Option.some.inj length).symm
  rw [eight] at length passed
  have checksum : some (le16 lo hi) = some (0x2FBE : Word16) := by
    have received := receivedChecksum_of_ckValid length passed
    rwa [crcPair_devck_append (by decide), devck_sigCdBytes] at received
  have bytes : [lo, hi] = [0xBE, 0x2F] := by
    rw [← le16Bytes_le16, Option.some.inj checksum]
    decide
  cases bytes
  rfl

/-- R86: the frame passes every test, whatever the scratch registers held. -/
theorem classify_chartDisplayFrame (eng : Engine) (len : Int) :
    (classify builtTable chartDisplayFrame eng len).kind = .chartDisplay ∧
    (classify builtTable chartDisplayFrame eng len).cause = .none := by
  obtain ⟨kind, cause⟩ := classify_verdict_eq builtTable chartDisplayFrame eng Engine.reset len 0
  rw [kind, cause]
  decide +kernel

/-- R86: the answer of `CLASSIFY` run alone. -/
theorem exec_classify_verdict_iff {B : List Byte} {s : State} {k : Kind} {c : Cause} :
    (∃ t : State, exec (.classify B) s = .next t ∧ t.value = .verdict k c) ↔
      (classify s.table B s.eng s.len).kind = k ∧ (classify s.table B s.eng s.len).cause = c := by
  constructor
  · rintro ⟨t, run, value⟩
    cases run
    cases value
    exact ⟨rfl, rfl⟩
  · rintro ⟨rfl, rfl⟩
    exact ⟨_, rfl, rfl⟩

end Sys2Proof.Machine

namespace Sys2Proof.Proofs

open Sys2Proof Sys2Proof.Machine

/-- Settles O20: the length field gives eight bytes to the checksum, the first six fix it, and the frame so made
passes. -/
theorem oneChartDisplayFrame : Obligations.OneChartDisplayFrame := by
  intro s B table ten
  rw [exec_classify_verdict_iff, table]
  constructor
  · rintro ⟨kind, -⟩
    exact eq_chartDisplayFrame_of_classify ten kind
  · rintro rfl
    exact classify_chartDisplayFrame s.eng s.len

end Sys2Proof.Proofs
end

section
/-! PROOFS. Frames on the wire and an `RX_DROP` by name (R51 to R53, R100): a frame format is a delivery of its bytes, a
BatteryInfo buffer is handed over whole, and the drop counts that stop; with O43, O44 and O58. -/

namespace Sys2Proof.Machine

/-! ### A BatteryInfo buffer -/

theorem trailerOk_append_trailer (B : List Byte) : trailerOk (B ++ [0x0D, 0x0A]) = true := by
  simp [trailerOk, byteIs, memRead1]

theorem sigBi_sigBiBytes_append (tail : List Byte) : sigBi (sigBiBytes ++ tail) = true := by
  simp [sigBi_iff, sigBiBytes]

/-- R86: a BatteryInfo buffer has no length field to read and no checksum to test. -/
theorem classify_of_batteryInfo {T : CrcTable} {B : List Byte} {eng : Engine} {len : Int} (signature : sigBi B = true)
    (nine : 9 ≤ B.length) (trailer : trailerOk B = true) :
    classify T B eng len = ⟨eng, len, .batteryInfo, .none⟩ := by
  have long : ¬ B.length < minLength .batteryInfo := by simp only [minLength, minBi]; omega
  simp [classify, signature, long, trailer]

/-- R96 to R100: a delivery that completes a BatteryInfo buffer ends in its first pass. -/
theorem deliver_of_batteryInfo {s : State} {D : List Byte} (fits : Fits s D) (signature : sigBi (s.buf ++ D) = true)
    (nine : 9 ≤ (s.buf ++ D).length) (trailer : trailerOk (s.buf ++ D) = true) :
    deliver D s = { s with
      buf := [], miss := 0, kind := .batteryInfo, cause := .none, result := .decoded, phase := .idle
      events := s.events ++ [.frameBi (s.buf ++ D)] } := by
  have classified : classifyBuffer { s with buf := s.buf ++ D } =
      { s with buf := s.buf ++ D, phase := .classifying, kind := .batteryInfo, cause := .none } := by
    simp only [classifyBuffer, classify_of_batteryInfo signature nine trailer]
  have kind : (classifyBuffer { s with buf := s.buf ++ D }).kind = kindOf .batteryInfo := by rw [classified]; rfl
  rw [deliver_of_fits fits]
  refine (deliverLoop_unfold { s with buf := s.buf ++ D }).trans ?_
  rw [deliverPass_of_kindOf kind, determined, classified]
  rfl

theorem fits_of_unbounded {s : State} (unbounded : s.bufCap = none) (D : List Byte) : Fits s D := by
  by_contra unfit
  exact bufCap_ne_none_of_not_fits unfit unbounded

/-! ### Frame formats as operations (R51, R53) -/

variable (s : State)

theorem exec_deliver (D : List Byte) : exec (.deliver D) s = .next (deliver D s) := rfl

theorem exec_frameBi (tail : List Byte) : exec (.frameBi tail) s = .next (deliver (sigBiBytes ++ tail) s) := rfl

theorem exec_frameCh (L : Word16) (rest : List Byte) :
    exec (.frameCh L rest) s = .next (deliver (chartHeader L ++ rest) s) := rfl

theorem exec_frameCd (rest : List Byte) : exec (.frameCd rest) s = .next (deliver (sigCdBytes ++ rest) s) := rfl

/-! ### Drop counts outside R52 -/

theorem dropCountOk_eq_false {N : Int} (outside : N < 4 ∨ 65535 < N) : dropCountOk N = false := by
  refine Bool.eq_false_iff.2 fun ok => ?_
  obtain ⟨low, high⟩ := (dropCountOk_iff N).1 ok
  omega

theorem exec_evRxDrop_of_outside {n : Nat} (outside : n < 4 ∨ 65535 < n) :
    exec (.evRxDrop n) s = .fault .dropOutside := by
  rw [exec_evRxDrop, dropCountOk_eq_false (by omega)]
  rfl

/-- R102: a Chart frame that is there in whole is dropped by its declared length. -/
theorem exec_dispatch_chart_of_outside (outside : s.len + 2 < 4 ∨ 65535 < s.len + 2)
    (whole : s.len + 2 ≤ (s.buf.length : Int)) : exec (.dispatch .chart) s = .fault .dropOutside :=
  if_pos ⟨rfl, whole, dropCountOk_eq_false outside⟩

end Sys2Proof.Machine

namespace Sys2Proof.Proofs

open Sys2Proof Sys2Proof.Machine

/-- Settles O43, format by format. -/
theorem wireBytesArriveAsADelivery : Obligations.WireBytesArriveAsADelivery :=
  fun s L rest => ⟨_, _, _, exec_frameBi s rest, exec_deliver s _, exec_frameCh s L rest, exec_deliver s _,
    exec_frameCd s rest, exec_deliver s _⟩

/-- Settles O44: the signature is the format's own, and bytes 5, 6 with the trailer make nine. -/
theorem batteryInfoFrameIsHandedOver : Obligations.BatteryInfoFrameIsHandedOver := by
  intro s b5 b6 payload empty unbounded
  have delivered := deliver_of_batteryInfo (s := s) (D := sigBiBytes ++ ([b5, b6] ++ payload ++ [0x0D, 0x0A]))
    (fits_of_unbounded unbounded _)
  rw [empty, List.nil_append] at delivered
  rw [exec_frameBi, delivered (sigBi_sigBiBytes_append _) (by simp [sigBiBytes])
    (by rw [← List.append_assoc]; exact trailerOk_append_trailer _)]
  rfl

/-- Settles O58: by its own name, and by a dispatch. -/
theorem rxDropOutsideItsRangeStops : Obligations.RxDropOutsideItsRangeStops :=
  ⟨fun s _ outside => exec_evRxDrop_of_outside s outside,
    fun s outside whole => exec_dispatch_chart_of_outside s outside whole⟩

end Sys2Proof.Proofs
end

section
/-! PROOFS. The recurrence and the CRC step (R70 to R72, R78): rounds are linear over XOR and lose nothing, so that the
step is eight rounds, two steps are sixteen, and one register and one byte pair alone lead to the residue; with O7, O8,
O9 and O10. -/

namespace Sys2Proof.Machine

/-! ### Rounds (R70) -/

/-- A round as a linear form: the polynomial comes in with bit 0. -/
theorem polyRound_eq_xor (v : Word16) : polyRound v = v >>> 1 ^^^ bif v.getLsbD 0 then poly else 0 := by
  unfold polyRound
  cases v.getLsbD 0
  · exact (BitVec.xor_zero).symm
  · rfl

theorem polyRound_xor (v w : Word16) : polyRound (v ^^^ w) = polyRound v ^^^ polyRound w := by
  have polynomial : ∀ a b : Bool,
      (bif a ^^ b then poly else 0) = (bif a then poly else 0) ^^^ (bif b then poly else 0) := by decide
  simp only [polyRound_eq_xor, BitVec.getLsbD_xor, BitVec.ushiftRight_xor_distrib, polynomial]
  ac_rfl

/-- Bit 15 of a round is set only by the polynomial, and so tells bit 0 of what went in. -/
theorem eq_zero_of_polyRound_eq_zero {v : Word16} (zero : polyRound v = 0) : v = 0 := by
  have bits : ∀ i, (polyRound v).getLsbD i = false := fun i => by rw [zero]; exact BitVec.getLsbD_zero
  cases low : v.getLsbD 0 with
  | true =>
    have top := bits 15
    rw [polyRound, if_pos low] at top
    simp [poly] at top
  | false =>
    simp only [polyRound, low, Bool.false_eq_true, if_false] at bits
    refine BitVec.eq_of_getLsbD_eq fun i _ => ?_
    cases i with
    | zero => exact low
    | succ i => simpa [Nat.add_comm] using bits i

theorem polyRound_injective : Function.Injective polyRound := fun v w same =>
  BitVec.xor_eq_zero_iff.1 (eq_zero_of_polyRound_eq_zero (by rw [polyRound_xor, same, BitVec.xor_self]; rfl))

theorem polyRounds_eq_iterate (n : Nat) (v : Word16) : polyRounds n v = polyRound^[n] v := by
  induction n generalizing v with
  | zero => rfl
  | succ n ih => exact ih _

theorem polyRounds_injective (n : Nat) : Function.Injective (polyRounds n) := by
  rw [show polyRounds n = polyRound^[n] from funext (polyRounds_eq_iterate n)]
  exact polyRound_injective.iterate n

theorem polyRounds_xor (n : Nat) (v w : Word16) : polyRounds n (v ^^^ w) = polyRounds n v ^^^ polyRounds n w := by
  induction n generalizing v w with
  | zero => rfl
  | succ n ih => simp only [polyRounds, polyRound_xor, ih]

theorem polyRounds_add (m n : Nat) (v : Word16) : polyRounds (m + n) v = polyRounds n (polyRounds m v) := by
  simp only [polyRounds_eq_iterate, Nat.add_comm m, Function.iterate_add_apply]

/-- While the bits shifted out are clear, a round is the shift alone. -/
theorem polyRounds_of_low_clear {n : Nat} {v : Word16} (clear : ∀ i < n, v.getLsbD i = false) :
    polyRounds n v = v >>> n := by
  induction n generalizing v with
  | zero => simp [polyRounds]
  | succ n ih =>
    have shifted : polyRound v = v >>> 1 := by rw [polyRound, clear 0 (Nat.succ_pos n)]; rfl
    rw [polyRounds, shifted, ih fun i hi => ?_, ← BitVec.shiftRight_add, Nat.add_comm]
    rw [BitVec.getLsbD_ushiftRight]
    exact clear _ (by omega)

/-- Eight rounds bring a high byte down. -/
theorem polyRounds_eight_shiftLeft {v : Word16} (byte : v >>> 8 = 0) : polyRounds 8 (v <<< 8) = v := by
  rw [polyRounds_of_low_clear fun i hi => by simp [hi]]
  bv_omega

/-! ### The table (R71) -/

theorem builtTable_read (b : Byte) : builtTable.read b = polyRounds 8 (b.zeroExtend 16) := by
  simp [CrcTable.read, builtTable, tableEntry]

theorem builtTable_read_xor (a b : Byte) :
    builtTable.read (a ^^^ b) = builtTable.read a ^^^ builtTable.read b := by
  simp only [builtTable_read, BitVec.zeroExtend, BitVec.setWidth_xor, polyRounds_xor]

/-- An entry without a high byte is what eight rounds make of that entry shifted up, which has no low byte. -/
theorem eq_zero_of_builtTable_read_high {b : Byte} (high : builtTable.read b >>> 8 = 0) : b = 0 := by
  have input : b.zeroExtend 16 = builtTable.read b <<< 8 :=
    polyRounds_injective 8 ((builtTable_read b).symm.trans (polyRounds_eight_shiftLeft high).symm)
  bv_omega

theorem eq_of_builtTable_read_high {a b : Byte} (high : builtTable.read a >>> 8 = builtTable.read b >>> 8) :
    a = b := by
  refine BitVec.xor_eq_zero_iff.1 (eq_zero_of_builtTable_read_high ?_)
  rw [builtTable_read_xor, BitVec.ushiftRight_xor_distrib, high, BitVec.xor_self]
  rfl

/-! ### The step (R72) -/

/-- The index of the step, with the byte put into the low half. -/
theorem crcStep_index (crc : Word16) (b : Byte) :
    ((crc ^^^ b.zeroExtend 16) &&& 0x00FF).truncate 8 = crc.truncate 8 ^^^ b := by
  have low_half : ∀ v : Word16, (v &&& 0x00FF).truncate 8 = v.truncate 8 := fun v =>
    BitVec.setWidth_and.trans (and_0xFF _)
  rw [low_half]
  simp

theorem crcStep_eq (T : CrcTable) (crc : Word16) (b : Byte) :
    crcStep T crc b = (crc >>> 8) ^^^ T.read (crc.truncate 8 ^^^ b) := by
  rw [crcStep, crcStep_index]

theorem eq_high_xor_low (v : Word16) : v = v >>> 8 <<< 8 ^^^ (v.truncate 8).zeroExtend 16 := by
  refine BitVec.eq_of_getLsbD_eq fun i hi => ?_
  by_cases low : i < 8
  · simp [low, hi]
  · simp [low, hi, show 8 + (i - 8) = i by omega]

/-- R72: the high half is shifted down, the low half goes through the table, and rounds are linear. -/
theorem crcStep_builtTable (crc : Word16) (b : Byte) :
    crcStep builtTable crc b = polyRounds 8 (crc ^^^ b.zeroExtend 16) := by
  have high : (crc ^^^ b.zeroExtend 16) >>> 8 = crc >>> 8 := by
    have gone : b.zeroExtend 16 >>> 8 = 0 := by bv_omega
    rw [BitVec.ushiftRight_xor_distrib, gone]
    exact BitVec.xor_zero
  have low : (crc ^^^ b.zeroExtend 16).truncate 8 = crc.truncate 8 ^^^ b := by simp
  generalize crc ^^^ b.zeroExtend 16 = v at high low ⊢
  calc crcStep builtTable crc b = v >>> 8 ^^^ polyRounds 8 ((v.truncate 8).zeroExtend 16) := by
        rw [crcStep_eq, builtTable_read, high, low]
    _ = polyRounds 8 (v >>> 8 <<< 8) ^^^ polyRounds 8 ((v.truncate 8).zeroExtend 16) := by
        rw [polyRounds_eight_shiftLeft (by bv_omega)]
    _ = polyRounds 8 v := by rw [← polyRounds_xor, ← eq_high_xor_low]

/-! ### Two steps (R78) -/

theorem le16_eq_xor (lo hi : Byte) : le16 lo hi = lo.zeroExtend 16 ^^^ hi.zeroExtend 16 <<< 8 := by
  refine BitVec.eq_of_getLsbD_eq fun i hi => ?_
  by_cases low : i < 8
  · simp [le16, low]
  · simp [le16, low, BitVec.getLsbD_of_ge lo i (by omega)]

theorem append_eq_le16 (lo hi : Byte) : hi ++ lo = le16 lo hi := by
  apply BitVec.eq_of_toNat_eq
  rw [le16_toNat]
  refine (BitVec.toNat_append hi lo).trans ?_
  rw [← Nat.shiftLeft_add_eq_or_of_lt lo.isLt]
  omega

/-- R30: a value's two bytes, low byte first. -/
theorem le16_eq_iff {lo hi : Byte} {v : Word16} : le16 lo hi = v ↔ [lo, hi] = le16Bytes v := by
  constructor
  · rintro rfl
    exact (le16Bytes_le16 lo hi).symm
  · intro bytes
    obtain ⟨rfl, rfl⟩ : lo = v.truncate 8 ∧ hi = (v >>> 8).truncate 8 := by simpa [le16Bytes] using bytes
    exact le16_truncate v

/-- Two steps are sixteen rounds, the bytes put in low byte first. -/
theorem crcStep_crcStep_builtTable (c : Word16) (lo hi : Byte) :
    crcStep builtTable (crcStep builtTable c lo) hi = polyRounds 16 (c ^^^ le16 lo hi) := by
  calc crcStep builtTable (crcStep builtTable c lo) hi
    _ = polyRounds 8 (polyRounds 8 (c ^^^ lo.zeroExtend 16) ^^^ hi.zeroExtend 16) := by
        rw [crcStep_builtTable, crcStep_builtTable]
    _ = polyRounds 8 (polyRounds 8 (c ^^^ lo.zeroExtend 16) ^^^ polyRounds 8 (hi.zeroExtend 16 <<< 8)) := by
        rw [polyRounds_eight_shiftLeft (by bv_omega)]
    _ = polyRounds 16 (c ^^^ lo.zeroExtend 16 ^^^ hi.zeroExtend 16 <<< 8) := by
        rw [← polyRounds_xor, ← polyRounds_add]
    _ = polyRounds 16 (c ^^^ le16 lo hi) := by rw [le16_eq_xor, BitVec.xor_assoc]

/-- R78: sixteen rounds lose nothing, and take `0xFFFF` to the residue. -/
theorem crcStep_crcStep_eq_residue_iff (c : Word16) (lo hi : Byte) :
    crcStep builtTable (crcStep builtTable c lo) hi = 0xF0B8 ↔ le16 lo hi = c ^^^ 0xFFFF := by
  have residue : polyRounds 16 0xFFFF = 0xF0B8 := by simp [polyRounds, polyRound, poly]
  rw [crcStep_crcStep_builtTable, ← residue, (polyRounds_injective 16).eq_iff, ← BitVec.xor_right_inj c,
    ← BitVec.xor_assoc, BitVec.xor_self, BitVec.zero_xor]

/-! ### The operations run alone (R70, R72) -/

theorem exec_tblgen (s : State) : exec .tblgen s = .next { s with table := builtTable } := rfl

theorem exec_crcstep (s : State) (crc : Word16) (b : Byte) :
    exec (.crcstep crc b) s = .next (returnValue (.crc (crcStep s.table crc b)) s) := rfl

end Sys2Proof.Machine

namespace Sys2Proof.Proofs

open Sys2Proof Sys2Proof.Machine

/-- Settles O7: an entry is eight rounds, and the model's rounds are the iterate. -/
theorem tblgenBuildsTableByRecurrence : Obligations.TblgenBuildsTableByRecurrence := fun s =>
  ⟨_, exec_tblgen s, rfl, fun b => (builtTable_read b).trans (polyRounds_eq_iterate 8 _)⟩

/-- Settles O8: rounds are linear, and eight of them leave a high byte to every entry but the first. -/
theorem tableIsLinearWithDistinctHighBytes : Obligations.TableIsLinearWithDistinctHighBytes := by
  intro s t run a b
  cases run
  exact ⟨builtTable_read_xor a b, eq_of_builtTable_read_high⟩

/-- Settles O9: the model's index is the low half with the byte put in. -/
theorem crcstepResult : Obligations.CrcstepResult := by
  intro s crc byte
  rw [exec_crcstep, crcStep_eq]
  rfl

/-- Settles O10: with the built contents the step is eight rounds. -/
theorem crcstepIsBitSerial : Obligations.CrcstepIsBitSerial := by
  intro s crc byte built
  have rounds : crcStep s.table crc byte = polyRound^[8] (crc ^^^ byte.zeroExtend 16) := by
    rw [built, crcStep_builtTable, polyRounds_eq_iterate]
  rw [exec_crcstep, rounds]
  rfl

end Sys2Proof.Proofs
end

section
/-! PROOFS. The checksum pair in closed form (R73 to R75, R78): what the loop leaves in each register, read off its last
iterations; with O11 and O12. -/

namespace Sys2Proof.Machine

variable {T : CrcTable} {B : List Byte} {F : Int}

/-! ### The registers after the loop (R73) -/

/-- The engine as `CRCPAIR` starts its loop. -/
def crcStart (e : Engine) : Engine := { e with crc := crcInit, acc := 0, idx := 0 }

/-- The engine after the first `n` iterations. -/
def crcAbsorbed (T : CrcTable) (B : List Byte) (F : Int) (e : Engine) (n : Nat) : Engine :=
  crcLoop T F (B.take n) (crcStart e)

theorem crcPair_eq (T : CrcTable) (B : List Byte) (F : Int) (e : Engine) : crcPair T B F e =
    { crcAbsorbed T B F e F.toNat with
      devck := (((crcAbsorbed T B F e F.toNat).acc ^^^ devXor) &&& devXor).truncate 16 } := rfl

variable (e : Engine) {m n : Nat}

theorem crcAbsorbed_crc : (crcAbsorbed T B F e n).crc = crcAfter T (B.take n) := crcLoop_crc T F (B.take n) _

theorem crcAbsorbed_idx (present : n ≤ B.length) : (crcAbsorbed T B F e n).idx = n := by
  rw [crcAbsorbed, crcLoop_idx, List.length_take_of_le present]
  exact Nat.zero_add n

theorem crcAbsorbed_succ (present : n < B.length) :
    crcAbsorbed T B F e (n + 1) = crcIteration T F (crcAbsorbed T B F e n) (B.getD n 0) := by
  rw [crcAbsorbed, ← List.take_concat_get' B n present, crcLoop_append, List.getD_eq_getElem B 0 present]
  rfl

/-- From index `F - 2` on, `ACC` stays. -/
theorem crcAbsorbed_acc_add (present : m ≤ B.length) (uncovered : F - 2 ≤ m) :
    (crcAbsorbed T B F e (m + n)).acc = (crcAbsorbed T B F e m).acc := by
  rw [crcAbsorbed, List.take_add, crcLoop_append]
  refine crcLoop_acc_of_uncovered _ ?_
  rwa [← crcAbsorbed, crcAbsorbed_idx e present]

/-- Below it, an iteration writes `ACC` from the register before and the register behind. -/
theorem crcAbsorbed_succ_acc (present : n < B.length) (covered : (n : Int) < F - 2) :
    (crcAbsorbed T B F e (n + 1)).acc =
      (crcAfter T (B.take n) ^^^ (B.getD n 0).zeroExtend 16) ++ crcAfter T (B.take (n + 1)) := by
  have behind := crcAbsorbed_crc (T := T) (B := B) (F := F) e (n := n + 1)
  rw [crcAbsorbed_succ e present] at behind ⊢
  rw [← behind, ← crcAbsorbed_crc e]
  exact if_pos (by rwa [crcAbsorbed_idx e present.le])

/-! ### The closed forms -/

theorem crcPair_crc : (crcPair T B F e).crc = crcAfter T (B.take F.toNat) := crcAbsorbed_crc e

/-- R73: `PREV` is `CRC` before the last byte. -/
theorem crcPair_prev (within : F ≤ B.length) :
    (crcPair T B F e).prev = if 1 ≤ F then crcAfter T (B.take (F - 1).toNat) else e.prev := by
  rw [crcPair_eq]
  split
  next absorbs =>
    rw [show F.toNat = (F - 1).toNat + 1 by omega, crcAbsorbed_succ e (by omega)]
    exact crcAbsorbed_crc e
  next absorbs_none =>
    rw [show F.toNat = 0 by omega]
    rfl

/-- R74: `ACC` is written last by the byte at `F - 3`, and by none where `F` is below 3. -/
theorem crcPair_acc (within : F ≤ B.length) :
    (crcPair T B F e).acc = if 3 ≤ F then
      (crcAfter T (B.take (F - 3).toNat) ^^^ (B.getD (F - 3).toNat 0).zeroExtend 16) ++
        crcAfter T (B.take (F - 2).toNat) else 0 := by
  rw [crcPair_eq]
  split
  next covers =>
    rw [show F.toNat = (F - 3).toNat + 1 + 2 by omega, show (F - 2).toNat = (F - 3).toNat + 1 by omega]
    exact (crcAbsorbed_acc_add e (by omega) (by omega)).trans (crcAbsorbed_succ_acc e (by omega) (by omega))
  next covers_none =>
    rw [show F.toNat = 0 + F.toNat by omega]
    exact crcAbsorbed_acc_add e (Nat.zero_le _) (by omega)

/-- R75: the low half of `ACC`, complemented. -/
theorem truncate_append_devXor (high low : Word16) :
    (((high ++ low : Word32) ^^^ devXor) &&& devXor).truncate 16 = low ^^^ 0xFFFF := by
  have low_half : (high ++ low : Word32).truncate 16 = low := BitVec.setWidth_append_eq_right
  have mask : devXor.truncate 16 = BitVec.allOnes 16 := rfl
  simp only [BitVec.truncate_eq_setWidth] at low_half mask ⊢
  rw [BitVec.setWidth_and, BitVec.setWidth_xor, low_half, mask, BitVec.and_allOnes]
  rfl

theorem crcPair_devck (within : F ≤ B.length) : (crcPair T B F e).devck = deviceChecksumOf T B F := by
  have devck : (crcPair T B F e).devck = (((crcPair T B F e).acc ^^^ devXor) &&& devXor).truncate 16 := rfl
  rw [devck, crcPair_acc e within, deviceChecksumOf]
  split
  · exact truncate_append_devXor _ _
  · rfl

theorem exec_crcpair_of_within (s : State) (within : F ≤ B.length) : exec (.crcpair B F) s = .next
    (returnValue (.pair (crcPair s.table B F s.eng).crc (crcPair s.table B F s.eng).devck)
      { s with eng := crcPair s.table B F s.eng }) := if_neg (by omega)

/-! ### The residue (R78) -/

/-- Two bytes behind a sequence are its complemented register exactly when they leave the residue. -/
theorem crcAfter_append_pair_eq_residue_iff (M : List Byte) (lo hi : Byte) :
    crcAfter builtTable (M ++ [lo, hi]) = 0xF0B8 ↔ le16 lo hi = x25 M := by
  rw [crcAfter, List.foldl_append]
  exact crcStep_crcStep_eq_residue_iff _ lo hi

theorem deviceChecksumOf_builtTable (covers : 3 ≤ F) :
    deviceChecksumOf builtTable B F = x25 (B.take (F - 2).toNat) := if_pos covers

theorem crcAfter_eq_residue_iff_fieldAt (covers : 2 ≤ F) (within : F ≤ B.length) :
    crcAfter builtTable (B.take F.toNat) = 0xF0B8 ↔
      fieldAt B (F - 2).toNat (x25 (B.take (F - 2).toNat)) := by
  obtain ⟨lo, hi, bytes⟩ : ∃ lo hi, (B.drop (F - 2).toNat).take 2 = [lo, hi] :=
    List.length_eq_two.1 (by simp; omega)
  rw [show F.toNat = (F - 2).toNat + 2 by omega, List.take_add, bytes, crcAfter_append_pair_eq_residue_iff,
    fieldAt, bytes]
  exact le16_eq_iff

end Sys2Proof.Machine

namespace Sys2Proof.Proofs

open Sys2Proof Sys2Proof.Machine

/-- Settles O11, register by register. -/
theorem crcpairResult : Obligations.CrcpairResult := by
  intro s B F within
  refine ⟨_, exec_crcpair_of_within s within, ?_, crcPair_crc _, crcPair_devck _ within, crcPair_acc _ within,
    crcPair_prev _ within⟩
  rw [crcPair_crc, crcPair_devck _ within]
  rfl

/-- Settles O12: the last two bytes absorbed are the field at `F - 2`. -/
theorem residueExactlyWhenChecksumMatches : Obligations.ResidueExactlyWhenChecksumMatches := by
  refine ⟨fun c lo hi => ?_, fun s B F built covers within => ?_⟩
  · rw [append_eq_le16]
    exact crcStep_crcStep_eq_residue_iff c lo hi
  · have devck : (crcPair builtTable B F s.eng).devck = x25 (B.take (F - 2).toNat) :=
      (crcPair_devck _ within).trans (deviceChecksumOf_builtTable covers)
    rw [exec_crcpair_of_within s within, built]
    refine ⟨_, rfl, devck, ?_⟩
    simp only [returnValue_eng, crcPair_crc, devck]
    exact crcAfter_eq_residue_iff_fieldAt (by omega) within

end Sys2Proof.Proofs
end

section
/-! PROOFS. The checksum-valid test (R77, R79): its answer in closed form, and that a register once wrong stays wrong,
so that no change of one covered byte passes; with O13 and O14. -/

namespace Sys2Proof.Machine

variable {T : CrcTable} {B : List Byte}

/-! ### The answer (R77) -/

/-- R80: four bytes have a length field. -/
theorem frameLength_eq_coveredLength (four : 4 ≤ B.length) : frameLength B = some (coveredLength B) := by
  match B, four with
  | _ :: _ :: lo :: hi :: _, _ =>
    simp [frameLength, lengthField, memRead2, memRead1, coveredLength, declaredLength, le16_toNat]

/-- R30, R56: the two bytes read are those of the value. -/
theorem memRead2_eq_some_iff_fieldAt {a : Nat} {v : Word16} : memRead2 B a = some v ↔ fieldAt B a v := by
  have here : memRead2 B a = memRead2 (B.drop a) 0 := by simp [memRead2, memRead1]
  rw [here, fieldAt]
  match B.drop a with
  | [] => simp [memRead2, memRead1]
  | [_] => simp [memRead2, memRead1]
  | lo :: hi :: _ =>
    rw [show memRead2 (lo :: hi :: _) 0 = some (le16 lo hi) from rfl, Option.some.injEq]
    exact le16_eq_iff

theorem ckValid_of_outside {eng : Engine} {len : Int} (four : 4 ≤ B.length)
    (outside : coveredLength B < 2 ∨ (B.length : Int) < coveredLength B) :
    ckValid T B eng len = ⟨eng, coveredLength B, false⟩ := by
  simp only [ckValid, frameLength_eq_coveredLength four, if_pos outside]

theorem ckValid_of_within {eng : Engine} {len : Int} (four : 4 ≤ B.length)
    (within : ¬ (coveredLength B < 2 ∨ (B.length : Int) < coveredLength B)) :
    ckValid T B eng len = ⟨crcPair T B (coveredLength B) eng, coveredLength B,
      (crcPair T B (coveredLength B) eng).crc == crcResidue &&
        receivedChecksum B (coveredLength B) == some (crcPair T B (coveredLength B) eng).devck⟩ := by
  simp only [ckValid, frameLength_eq_coveredLength four, if_neg within]

theorem ckValid_len (four : 4 ≤ B.length) (eng : Engine) (len : Int) :
    (ckValid T B eng len).len = coveredLength B := by
  by_cases outside : coveredLength B < 2 ∨ (B.length : Int) < coveredLength B
  · rw [ckValid_of_outside four outside]
  · rw [ckValid_of_within four outside]

/-- R77: within the bounds, the residue and the received bytes; outside them, no. -/
theorem ckValid_ok_iff (four : 4 ≤ B.length) (eng : Engine) (len : Int) :
    (ckValid T B eng len).ok = true ↔ ChecksumValid T B := by
  by_cases outside : coveredLength B < 2 ∨ (B.length : Int) < coveredLength B
  · rw [ckValid_of_outside four outside]
    constructor
    · rintro ⟨⟩
    · rintro ⟨-, low, high, -⟩
      omega
  · have low : 2 ≤ coveredLength B := by omega
    have high : coveredLength B ≤ B.length := by omega
    rw [ckValid_of_within four outside]
    simp only [crcPair_crc, crcPair_devck _ high, receivedChecksum, if_pos low, Bool.and_eq_true, beq_iff_eq,
      memRead2_eq_some_iff_fieldAt]
    exact ⟨fun ⟨residue, received⟩ => ⟨four, low, high, residue, received⟩,
      fun ⟨_, _, _, residue, received⟩ => ⟨residue, received⟩⟩

theorem exec_ckvalid_of_four (s : State) (four : 4 ≤ B.length) : exec (.ckvalid B) s = .next
    (returnValue (.bool (ckValid s.table B s.eng s.len).ok)
      { s with eng := (ckValid s.table B s.eng s.len).eng, len := (ckValid s.table B s.eng s.len).len }) :=
  if_neg (by omega)

/-! ### One byte changed (R79) -/

theorem crcStep_injective (b : Byte) : Function.Injective (crcStep builtTable · b) := fun c d same => by
  simp only [crcStep_builtTable] at same
  exact (BitVec.xor_left_inj _).1 (polyRounds_injective 8 same)

theorem crcStep_byte_injective (crc : Word16) : Function.Injective (crcStep builtTable crc) := fun a b same => by
  rw [crcStep_builtTable, crcStep_builtTable] at same
  have widened : a.zeroExtend 16 = b.zeroExtend 16 := (BitVec.xor_right_inj _).1 (polyRounds_injective 8 same)
  bv_omega

/-- Two registers that differ still differ after any bytes. -/
theorem foldl_crcStep_injective (M : List Byte) : Function.Injective (M.foldl (crcStep builtTable)) := by
  induction M with
  | nil => exact Function.injective_id
  | cons b M ih => exact ih.comp (crcStep_injective b)

/-- R79 (a): the register behind a sequence tells any one of its bytes, given the others. -/
theorem crcAfter_set_injective {M : List Byte} {a : Nat} (present : a < M.length) :
    Function.Injective fun v => crcAfter builtTable (M.set a v) := fun v w same => by
  simp only [List.set_eq_take_append_cons_drop, if_pos present, crcAfter, List.foldl_append, List.foldl_cons] at same
  exact crcStep_byte_injective _ (foldl_crcStep_injective _ same)

theorem crcAfter_set_ne {M : List Byte} {a : Nat} {v : Byte} (present : a < M.length) (changed : M[a]? ≠ some v) :
    crcAfter builtTable (M.set a v) ≠ crcAfter builtTable M := by
  intro same
  rw [← List.set_getElem_self present] at same
  simp only [List.set_set] at same
  have byte : v = M[a] := crcAfter_set_injective present same
  exact changed (by rw [byte, List.getElem?_eq_getElem present])

/-- A change outside bytes 2 and 3 leaves the length field. -/
theorem coveredLength_set {a : Nat} (not_low : a ≠ 2) (not_high : a ≠ 3) (v : Byte) :
    coveredLength (B.set a v) = coveredLength B := by
  simp [coveredLength, declaredLength, List.getElem?_set_ne not_low, List.getElem?_set_ne not_high]

/-- R79 (a): the changed byte is seen by the residue alone. -/
theorem not_checksumValid_set {a : Nat} {v : Byte} (valid : ChecksumValid builtTable B)
    (covered : (a : Int) < coveredLength B) (not_low : a ≠ 2) (not_high : a ≠ 3) (changed : B[a]? ≠ some v) :
    ¬ ChecksumValid builtTable (B.set a v) := by
  rintro ⟨-, -, -, residue, -⟩
  obtain ⟨-, -, within, residue_before, -⟩ := valid
  rw [coveredLength_set not_low not_high, List.take_set] at residue
  refine crcAfter_set_ne ?_ ?_ (residue.trans residue_before.symm)
  · rw [List.length_take]
    omega
  · rwa [List.getElem?_take_of_lt (by omega)]

end Sys2Proof.Machine

namespace Sys2Proof.Proofs

open Sys2Proof Sys2Proof.Machine

/-- Settles O14: the answer in closed form, and `LEN` and the engine inside and outside the bounds. -/
theorem ckvalidResult : Obligations.CkvalidResult := by
  intro s B four
  refine ⟨_, _, exec_ckvalid_of_four s four, ckValid_ok_iff four s.eng s.len, ?_, fun outside => ?_⟩
  · rw [ckValid_len four]
    rfl
  · rw [ckValid_of_outside four outside]
    exact ⟨rfl, rfl⟩

/-- Settles O13: the length field stands, and the residue does not. -/
theorem checksumTestCatchesAnyOneByte : Obligations.ChecksumTestCatchesAnyOneByte := by
  intro s B a v built valid covered not_low not_high changed
  have ⟨four, _⟩ := valid
  have four_after : 4 ≤ (B.set a v).length := by rwa [List.length_set]
  refine ⟨_, exec_ckvalid_of_four s four_after, congrArg OpResult.bool (Bool.eq_false_iff.2 fun passed => ?_)⟩
  rw [ckValid_ok_iff four_after, built] at passed
  exact not_checksumValid_set valid covered not_low not_high changed passed

end Sys2Proof.Proofs
end

section
/-! PROOFS. A Chart frame built by the recipe (R53, R78, R79, R102): it passes every test of the classifier, and a
delivery of it into an empty buffer hands it over; with O46. -/

namespace Sys2Proof.Machine

/-! ### A buffer that is one Chart frame -/

/-- R86: what a Chart verdict leaves. -/
theorem classify_of_chart {T : CrcTable} {B : List Byte} {eng : Engine} {len : Int} (signature : sigCh B = true)
    (ten : 10 ≤ B.length) (trailer : trailerOk B = true) (valid : ChecksumValid T B) :
    classify T B eng len = ⟨(ckValid T B eng (coveredLength B)).eng, coveredLength B, .chart, .none⟩ := by
  have ⟨four, _, within, _⟩ := valid
  have not_bi : sigBi B = false := Bool.eq_false_iff.2 fun bi => not_sigBi_and_sigCh B ⟨bi, signature⟩
  have long : ¬ B.length < minLength .chart := by simp only [minLength, minCh]; omega
  have present : ¬ (B.length : Int) < coveredLength B := by omega
  have passed := (ckValid_ok_iff four eng (coveredLength B)).2 valid
  simp [classify, signature, not_bi, long, trailer, frameLength_eq_coveredLength four, present, passed,
    ckValid_len four, kindOf]

/-- R102: what is left of the state when the buffer is the frame. -/
theorem dispatchChart_of_whole {s : State} (whole : s.len + 2 = s.buf.length) : dispatchChart s =
    ({ s with
        buf := [], result := .decoded, phase := .idle
        events := s.events ++ [.frameChart s.buf, .rxDrop s.buf.length] }, .stop) := by
  have length : (s.len + 2).toNat = s.buf.length := by omega
  have consumed : chartConsumed s =
      { s with buf := [], events := s.events ++ [.frameChart s.buf, .rxDrop s.buf.length] } := by
    simp [chartConsumed, length, emit, truncBuf]
  rw [dispatchChart_of_last (by omega) (by rw [consumed]; rfl), consumed]
  rfl

/-- R96 to R102: a delivery that completes a buffer of one Chart frame ends in its first pass. -/
theorem deliver_of_whole_chart {s : State} {D : List Byte} (fits : Fits s D) (signature : sigCh (s.buf ++ D) = true)
    (ten : 10 ≤ (s.buf ++ D).length) (trailer : trailerOk (s.buf ++ D) = true)
    (valid : ChecksumValid s.table (s.buf ++ D)) (whole : declaredLength (s.buf ++ D) = (s.buf ++ D).length) :
    deliver D s = { s with
      buf := [], miss := 0, kind := .chart, cause := .none, result := .decoded, phase := .idle
      eng := (ckValid s.table (s.buf ++ D) s.eng (coveredLength (s.buf ++ D))).eng
      len := coveredLength (s.buf ++ D)
      events := s.events ++ [.frameChart (s.buf ++ D), .rxDrop (s.buf ++ D).length] } := by
  have classified : classifyBuffer { s with buf := s.buf ++ D } = { s with
      buf := s.buf ++ D, phase := .classifying, kind := .chart, cause := .none
      eng := (ckValid s.table (s.buf ++ D) s.eng (coveredLength (s.buf ++ D))).eng
      len := coveredLength (s.buf ++ D) } := by
    simp only [classifyBuffer, classify_of_chart signature ten trailer valid]
  have kind : (classifyBuffer { s with buf := s.buf ++ D }).kind = kindOf .chart := by rw [classified]; rfl
  rw [deliver_of_fits fits]
  refine (deliverLoop_unfold { s with buf := s.buf ++ D }).trans ?_
  rw [deliverPass_of_kindOf kind, determined, classified, show dispatch .chart _ = dispatchChart _ from rfl,
    dispatchChart_of_whole (by simp only [coveredLength]; omega)]

/-! ### The built frame -/

/-- R78: with the built table one of the two conditions is enough. -/
theorem checksumValid_of_fieldAt {B : List Byte} (four : 4 ≤ B.length) (covers : 3 ≤ coveredLength B)
    (within : coveredLength B ≤ B.length)
    (received : fieldAt B (coveredLength B - 2).toNat (x25 (B.take (coveredLength B - 2).toNat))) :
    ChecksumValid builtTable B := by
  refine ⟨four, by omega, within, (crcAfter_eq_residue_iff_fieldAt (by omega) within).2 received, ?_⟩
  rwa [deviceChecksumOf_builtTable covers]

variable (payload : List Byte)

theorem chartFrameHead_length : (chartFrameHead payload).length = 6 + payload.length := by
  simp [chartFrameHead, chartHeader, le16Bytes]
  omega

theorem chartFrame_length : (chartFrame payload).length = 10 + payload.length := by
  simp [chartFrame, chartFrameHead_length, le16Bytes]
  omega

theorem chartHeader_append_chartFrameRest :
    chartHeader (BitVec.ofNat 16 (10 + payload.length)) ++ chartFrameRest payload = chartFrame payload := by
  simp [chartFrameRest, chartFrame, chartFrameHead]

theorem sigCh_chartHeader_append (L : Word16) (rest : List Byte) : sigCh (chartHeader L ++ rest) = true := by
  simp [sigCh_iff, chartHeader, le16Bytes]

theorem declaredLength_chartHeader_append (L : Word16) (rest : List Byte) :
    declaredLength (chartHeader L ++ rest) = L.toNat := by
  refine Eq.trans ?_ (congrArg BitVec.toNat (le16_truncate L))
  rw [le16_toNat]
  rfl

theorem declaredLength_chartFrame {payload : List Byte} (short : payload.length ≤ 65525) :
    declaredLength (chartFrame payload) = 10 + payload.length := by
  rw [← chartHeader_append_chartFrameRest, declaredLength_chartHeader_append]
  exact Nat.mod_eq_of_lt (by omega)

theorem checksumValid_chartFrame {payload : List Byte} (short : payload.length ≤ 65525) :
    ChecksumValid builtTable (chartFrame payload) := by
  have length := chartFrame_length payload
  have declared := declaredLength_chartFrame short
  have head_end : (coveredLength (chartFrame payload) - 2).toNat = (chartFrameHead payload).length := by
    rw [coveredLength, declared, chartFrameHead_length]
    omega
  refine checksumValid_of_fieldAt (by omega) (by rw [coveredLength]; omega) (by rw [coveredLength]; omega) ?_
  rw [head_end, fieldAt, chartFrame, List.append_assoc, List.take_left, List.drop_left]
  rfl

end Sys2Proof.Machine

namespace Sys2Proof.Proofs

open Sys2Proof Sys2Proof.Machine

/-- Settles O46: the header gives the signature and the length, the recipe the checksum, and the buffer is the
frame. -/
theorem builtChartFrameIsHandedOverUnchanged : Obligations.BuiltChartFrameIsHandedOverUnchanged := by
  intro s payload built empty unbounded short
  have buffer : s.buf ++ chartFrame payload = chartFrame payload := by rw [empty, List.nil_append]
  have signature : sigCh (chartFrame payload) = true := by
    rw [← chartHeader_append_chartFrameRest]
    exact sigCh_chartHeader_append _ _
  have trailer : trailerOk (chartFrame payload) = true := trailerOk_append_trailer _
  have valid := checksumValid_chartFrame short
  have length := chartFrame_length payload
  have delivered := deliver_of_whole_chart (fits_of_unbounded unbounded (chartFrame payload))
    (by rwa [buffer]) (by rw [buffer]; omega) (by rwa [buffer]) (by rwa [buffer, built])
    (by rw [buffer, length, declaredLength_chartFrame short])
  rw [buffer, length] at delivered
  rw [exec_frameCh, exec_deliver, chartHeader_append_chartFrameRest]
  exact ⟨_, rfl, rfl, by rw [delivered]⟩

end Sys2Proof.Proofs
end

section
/-! PROOFS. The classifier's operations run alone (R80 to R85): the length field, the minimum lengths, and the tests as
what the sequence begins and ends with; with O15, O16, O17 and O18. -/

namespace Sys2Proof.Machine

/-! ### What a sequence begins and ends with (R82 to R85) -/

/-- R82: the sequence begins with the five bytes. -/
theorem sigBi_iff_begins {B : List Byte} : sigBi B = true ↔ BeginsBatteryInfo B := by
  constructor
  · intro signature
    obtain ⟨five, bytes⟩ := (sigBi_iff B).1 signature
    match B, five with
    | b0 :: b1 :: b2 :: b3 :: b4 :: rest, _ =>
      simp only [byteIs_zero_cons, byteIs_succ_cons] at bytes
      obtain ⟨rfl, rfl, rfl, rfl, rfl⟩ := bytes
      exact ⟨rest, rfl⟩
  · rintro ⟨rest, rfl⟩
    exact sigBi_sigBiBytes_append rest

theorem sigCd_sigCdBytes_append (rest : List Byte) : sigCd (sigCdBytes ++ rest) = true := by
  simp [sigCd_iff, sigCdBytes]

/-- R84: the sequence begins with the six bytes. -/
theorem sigCd_iff_begins {B : List Byte} : sigCd B = true ↔ BeginsChartDisplay B := by
  constructor
  · intro signature
    obtain ⟨six, bytes⟩ := (sigCd_iff B).1 signature
    match B, six with
    | b0 :: b1 :: b2 :: b3 :: b4 :: b5 :: rest, _ =>
      simp only [byteIs_zero_cons, byteIs_succ_cons] at bytes
      obtain ⟨rfl, rfl, rfl, rfl, rfl, rfl⟩ := bytes
      exact ⟨rest, rfl⟩
  · rintro ⟨rest, rfl⟩
    exact sigCd_sigCdBytes_append rest

/-- R53, R83: a Chart signature is the header of a Chart frame, with the length field it happens to hold. -/
theorem beginsChart_iff_header {B : List Byte} : BeginsChart B ↔ ∃ L rest, B = chartHeader L ++ rest := by
  constructor
  · rintro ⟨six, front, back⟩
    match B, six with
    | b0 :: b1 :: lo :: hi :: b4 :: b5 :: rest, _ =>
      cases front
      cases back
      exact ⟨le16 lo hi, rest, by simp [chartHeader]⟩
  · rintro ⟨L, rest, rfl⟩
    exact ⟨by simp [chartHeader, le16Bytes], rfl, rfl⟩

/-- R83: the sequence begins with the four bytes, whatever stands at 2 and 3. -/
theorem sigCh_iff_begins {B : List Byte} : sigCh B = true ↔ BeginsChart B := by
  constructor
  · intro signature
    obtain ⟨six, bytes⟩ := (sigCh_iff B).1 signature
    match B, six with
    | b0 :: b1 :: b2 :: b3 :: b4 :: b5 :: rest, six =>
      simp only [byteIs_zero_cons, byteIs_succ_cons] at bytes
      obtain ⟨rfl, rfl, rfl, rfl⟩ := bytes
      exact ⟨six, rfl, rfl⟩
  · intro begins
    obtain ⟨L, rest, rfl⟩ := beginsChart_iff_header.1 begins
    exact sigCh_chartHeader_append L rest

/-- R85: the last two bytes of the whole sequence. -/
theorem trailerOk_iff_ends {B : List Byte} : trailerOk B = true ↔ EndsTrailer B := by
  constructor
  · intro trailer
    simp only [trailerOk, Bool.and_eq_true, decide_eq_true_eq, byteIs, beq_iff_eq] at trailer
    obtain ⟨⟨two, low⟩, high⟩ := trailer
    have received : memRead2 B (B.length - 2) = some (le16 0x0D 0x0A) :=
      (memRead2_eq_some _ _ _).2 ⟨_, _, low, by rwa [show B.length - 2 + 1 = B.length - 1 by omega], rfl⟩
    have field := memRead2_eq_some_iff_fieldAt.1 received
    rw [fieldAt, List.take_of_length_le (by rw [List.length_drop]; omega)] at field
    exact List.suffix_iff_eq_drop.2 field.symm
  · rintro ⟨front, rfl⟩
    exact trailerOk_append_trailer front

theorem not_trailerOk_iff_not_ends {B : List Byte} : (!trailerOk B) = true ↔ ¬ EndsTrailer B := by
  rw [Bool.not_eq_true', ← Bool.not_eq_true, trailerOk_iff_ends]

/-! ### The operations run alone -/

section
variable (s : State) (B : List Byte)

/-- R80: with four bytes, the length field less 2, in `LEN` and returned. -/
theorem exec_flen_of_four (four : 4 ≤ B.length) :
    exec (.flen B) s = .next (returnValue (.length (coveredLength B)) { s with len := coveredLength B }) := by
  rw [show exec (.flen B) s = execFlen B s from rfl, execFlen, frameLength_eq_coveredLength four]

/-- R81: a kind that has frames has their minimum length. -/
theorem exec_minlen_kindOf (k : FrameKind) :
    exec (.minlen (kindOf k)) s = .next (returnValue (.count (minLength k)) s) := by
  cases k <;> rfl

theorem exec_minlen_unknown : exec (.minlen .unknown) s =
    .next (returnValue (.count (9 + (Config.freeMinLen s.free).val)) { s with free := s.free + 1 }) := rfl

theorem exec_sigbi : exec (.sigbi B) s = .next (returnValue (.bool (sigBi B)) s) := rfl

theorem exec_sigch : exec (.sigch B) s = .next (returnValue (.bool (sigCh B)) s) := rfl

theorem exec_sigcd : exec (.sigcd B) s = .next (returnValue (.bool (sigCd B)) s) := rfl

theorem exec_trailer : exec (.trailer B) s = .next (returnValue (.bool (trailerOk B)) s) := rfl

end

end Sys2Proof.Machine

namespace Sys2Proof.Proofs

open Sys2Proof Sys2Proof.Machine

/-- Settles O15: `FLEN` answers the covered length, and two bytes bound it. -/
theorem flenResult : Obligations.FlenResult := by
  intro s b0 b1 b2 b3 rest
  have covered : coveredLength (b0 :: b1 :: b2 :: b3 :: rest) = (b2.toNat : Int) + 256 * (b3.toNat : Int) - 2 := by
    simp [coveredLength, declaredLength]
  have low := b2.isLt
  have high := b3.isLt
  refine ⟨?_, by omega, by omega⟩
  rw [exec_flen_of_four s _ (by simp), covered]
  rfl

/-- Settles O16, kind by kind. -/
theorem minlenResult : Obligations.MinlenResult := fun s =>
  ⟨exec_minlen_kindOf s .batteryInfo, exec_minlen_kindOf s .chart, exec_minlen_kindOf s .chartDisplay⟩

/-- Settles O17: the free value is 0 or 1, and comes on top of 9. -/
theorem minlenOfUnknownRunsWithAFreeValue : Obligations.MinlenOfUnknownRunsWithAFreeValue := by
  intro s
  have drawn := (Config.freeMinLen s.free).isLt
  exact ⟨_, by omega, exec_minlen_unknown s⟩

/-- Settles O18, test by test. -/
theorem signatureAndTrailerTests : Obligations.SignatureAndTrailerTests := fun s B =>
  ⟨sigBi B, sigCh B, sigCd B, trailerOk B, exec_sigbi s B, sigBi_iff_begins, exec_sigch s B, sigCh_iff_begins,
    exec_sigcd s B, sigCd_iff_begins, exec_trailer s B, trailerOk_iff_ends⟩

end Sys2Proof.Proofs
end

section
/-! PROOFS. The verdict of `CLASSIFY` (R86, R87, R112): its tests signature by signature, each outcome a kind whose
requirements hold or the row of its cause, and what a Chart verdict says of the length field; with O19 and O21. -/

namespace Sys2Proof.Machine

variable {T : CrcTable} {B : List Byte} {eng : Engine} {len : Int}

/-! ### The tests, signature by signature (R86, R115) -/

/-- The kind whose signature holds, of the two that have a checksum. -/
def checkedKind (B : List Byte) : FrameKind := if sigCh B then .chart else .chartDisplay

theorem not_beginsBatteryInfo_and_checked : ¬ (BeginsBatteryInfo B ∧ BeginsChecked B) := by
  rintro ⟨bi, ch | cd⟩
  · exact not_sigBi_and_sigCh B ⟨sigBi_iff_begins.2 bi, sigCh_iff_begins.2 ch⟩
  · exact not_sigBi_and_sigCd B ⟨sigBi_iff_begins.2 bi, sigCd_iff_begins.2 cd⟩

theorem sigCh_or_sigCd_iff_begins : (sigCh B || sigCd B) = true ↔ BeginsChecked B := by
  rw [Bool.or_eq_true, sigCh_iff_begins, sigCd_iff_begins]

theorem classify_of_beginsBatteryInfo (begins : BeginsBatteryInfo B) : classify T B eng len =
    if B.length < 9 then ⟨eng, len, .unknown, .incompleteFrame⟩
    else if !trailerOk B then ⟨eng, len, .unknown, .trailerMissing⟩
    else ⟨eng, len, .batteryInfo, .none⟩ :=
  if_pos (sigBi_iff_begins.2 begins)

/-- Behind its minimum length and trailer, a checked signature has four bytes for its length field. -/
theorem classify_of_beginsChecked (begins : BeginsChecked B) : classify T B eng len =
    if B.length < 10 then ⟨eng, len, .unknown, .incompleteFrame⟩
    else if !trailerOk B then ⟨eng, len, .unknown, .trailerMissing⟩
    else if (B.length : Int) < coveredLength B then ⟨eng, coveredLength B, .unknown, .incompleteFrame⟩
    else if (ckValid T B eng (coveredLength B)).ok then
      ⟨(ckValid T B eng (coveredLength B)).eng, coveredLength B, kindOf (checkedKind B), .none⟩
    else ⟨(ckValid T B eng (coveredLength B)).eng, coveredLength B, .unknown, .checksumMismatch⟩ := by
  have not_bi : ¬ sigBi B = true := fun bi => not_beginsBatteryInfo_and_checked ⟨sigBi_iff_begins.1 bi, begins⟩
  have kind : (if sigCh B = true then FrameKind.chart else .chartDisplay) = checkedKind B := rfl
  have minimum : minLength (checkedKind B) = 10 := by unfold checkedKind; split <;> rfl
  rw [classify, if_neg not_bi, if_pos (sigCh_or_sigCd_iff_begins.2 begins)]
  simp only [kind, minimum]
  by_cases short : B.length < 10
  · simp only [if_pos short]
  · have four : 4 ≤ B.length := by omega
    simp only [if_neg short, frameLength_eq_coveredLength four, ckValid_len four]

theorem classify_of_no_signature (not_bi : ¬ BeginsBatteryInfo B) (not_checked : ¬ BeginsChecked B) :
    classify T B eng len =
      if B.length < 6 then ⟨eng, len, .unknown, .incompleteFrame⟩
      else ⟨eng, len, .unknown, .unrecognizedSignature⟩ :=
  (if_neg (mt sigBi_iff_begins.1 not_bi)).trans (if_neg (mt sigCh_or_sigCd_iff_begins.1 not_checked))

/-! ### When a sequence is of no kind (R86) -/

theorem isUnknown_of_beginsBatteryInfo (begins : BeginsBatteryInfo B) (fails : ¬ (9 ≤ B.length ∧ EndsTrailer B)) :
    IsUnknown T B :=
  ⟨fun ⟨_, requirements⟩ => fails requirements,
    fun ⟨ch, _⟩ => not_beginsBatteryInfo_and_checked ⟨begins, .inl ch⟩,
    fun ⟨cd, _⟩ => not_beginsBatteryInfo_and_checked ⟨begins, .inr cd⟩⟩

theorem isUnknown_of_beginsChecked (begins : BeginsChecked B)
    (fails : ¬ (10 ≤ B.length ∧ EndsTrailer B ∧ ChecksumValid T B)) : IsUnknown T B :=
  ⟨fun ⟨bi, _⟩ => not_beginsBatteryInfo_and_checked ⟨bi, begins⟩, fun ⟨_, requirements⟩ => fails requirements,
    fun ⟨_, requirements⟩ => fails requirements⟩

theorem isUnknown_of_no_signature (not_bi : ¬ BeginsBatteryInfo B) (not_checked : ¬ BeginsChecked B) :
    IsUnknown T B :=
  ⟨fun ⟨bi, _⟩ => not_bi bi, fun ⟨ch, _⟩ => not_checked (.inl ch), fun ⟨cd, _⟩ => not_checked (.inr cd)⟩

/-- The requirements of the two checked kinds, behind the signature, are the same. -/
theorem kindIs_checkedKind (begins : BeginsChecked B) (ten : 10 ≤ B.length) (ends : EndsTrailer B)
    (valid : ChecksumValid T B) : KindIs T B (kindOf (checkedKind B)) := by
  unfold checkedKind
  split
  next ch => exact ⟨sigCh_iff_begins.1 ch, ten, ends, valid⟩
  next not_ch => exact ⟨begins.resolve_left (mt sigCh_iff_begins.2 not_ch), ten, ends, valid⟩

theorem not_isUnknown_of_kindIs_kindOf {k : FrameKind} (kind : KindIs T B (kindOf k)) : ¬ IsUnknown T B := by
  rintro ⟨not_bi, not_ch, not_cd⟩
  cases k with
  | batteryInfo => exact not_bi kind
  | chart => exact not_ch kind
  | chartDisplay => exact not_cd kind

/-! ### The verdict (R86, R112) -/

/-- A verdict that the rules give the sequence: its kind, its cause, and `LEN` for the kinds that have a length. -/
structure VerdictIs (T : CrcTable) (B : List Byte) (r : Classified) : Prop where
  kind : KindIs T B r.kind
  cause : CauseIs T B r.cause
  len : r.kind = .chart ∨ r.kind = .chartDisplay → r.len = coveredLength B

theorem VerdictIs.of_unknown {c : Cause} (unknown : IsUnknown T B) (cause : CauseIs T B c) :
    VerdictIs T B ⟨eng, len, .unknown, c⟩ := ⟨unknown, cause, nofun⟩

theorem VerdictIs.of_kindOf {k : FrameKind} (kind : KindIs T B (kindOf k))
    (length : k ≠ .batteryInfo → len = coveredLength B) : VerdictIs T B ⟨eng, len, kindOf k, .none⟩ :=
  ⟨kind, not_isUnknown_of_kindIs_kindOf kind, fun has_length => length (by rintro rfl; simp [kindOf] at has_length)⟩

theorem classify_verdictIs_of_beginsBatteryInfo (begins : BeginsBatteryInfo B) :
    VerdictIs T B (classify T B eng len) := by
  rw [classify_of_beginsBatteryInfo begins]
  split
  next short => exact .of_unknown (isUnknown_of_beginsBatteryInfo begins (by omega)) (.inl ⟨begins, short⟩)
  next long =>
    have nine : 9 ≤ B.length := by omega
    split
    next missing =>
      have not_ends : ¬ EndsTrailer B := not_trailerOk_iff_not_ends.1 missing
      exact .of_unknown (isUnknown_of_beginsBatteryInfo begins fun ⟨_, ends⟩ => not_ends ends)
        (.inl ⟨begins, nine, not_ends⟩)
    next present =>
      have ends : EndsTrailer B := not_not.1 (mt not_trailerOk_iff_not_ends.2 present)
      exact .of_kindOf (k := .batteryInfo) ⟨begins, nine, ends⟩ (absurd rfl)

theorem classify_verdictIs_of_beginsChecked (begins : BeginsChecked B) :
    VerdictIs T B (classify T B eng len) := by
  rw [classify_of_beginsChecked begins]
  split
  next short =>
    exact .of_unknown (isUnknown_of_beginsChecked begins (by omega)) (.inr (.inl ⟨begins, short⟩))
  next long =>
    have ten : 10 ≤ B.length := by omega
    split
    next missing =>
      have not_ends : ¬ EndsTrailer B := not_trailerOk_iff_not_ends.1 missing
      exact .of_unknown (isUnknown_of_beginsChecked begins fun ⟨_, ends, _⟩ => not_ends ends)
        (.inr ⟨begins, ten, not_ends⟩)
    next present =>
      have ends : EndsTrailer B := not_not.1 (mt not_trailerOk_iff_not_ends.2 present)
      split
      next beyond =>
        refine .of_unknown (isUnknown_of_beginsChecked begins ?_) (.inr (.inr (.inl ⟨begins, ten, ends, beyond⟩)))
        rintro ⟨-, -, -, -, within, -⟩
        omega
      next within =>
        have passed_iff := ckValid_ok_iff (T := T) (show 4 ≤ B.length by omega) eng (coveredLength B)
        split
        next passed => exact .of_kindOf (kindIs_checkedKind begins ten ends (passed_iff.1 passed)) fun _ => rfl
        next failed =>
          have invalid := mt passed_iff.2 failed
          exact .of_unknown (isUnknown_of_beginsChecked begins fun ⟨_, _, valid⟩ => invalid valid)
            ⟨begins, ten, ends, by omega, invalid⟩

theorem classify_verdictIs_of_no_signature (not_bi : ¬ BeginsBatteryInfo B) (not_checked : ¬ BeginsChecked B) :
    VerdictIs T B (classify T B eng len) := by
  have unknown : IsUnknown T B := isUnknown_of_no_signature not_bi not_checked
  rw [classify_of_no_signature not_bi not_checked]
  split
  next short => exact .of_unknown unknown (.inr (.inr (.inr ⟨not_bi, not_checked, short⟩)))
  next long => exact .of_unknown unknown ⟨not_bi, not_checked, by omega⟩

/-- R86, R112: every verdict is the one the rules give. -/
theorem classify_verdictIs (T : CrcTable) (B : List Byte) (eng : Engine) (len : Int) :
    VerdictIs T B (classify T B eng len) := by
  by_cases bi : BeginsBatteryInfo B
  · exact classify_verdictIs_of_beginsBatteryInfo bi
  by_cases checked : BeginsChecked B
  · exact classify_verdictIs_of_beginsChecked checked
  · exact classify_verdictIs_of_no_signature bi checked

theorem exec_classify (s : State) (B : List Byte) : exec (.classify B) s =
    .next (returnValue (.verdict (classify s.table B s.eng s.len).kind (classify s.table B s.eng s.len).cause)
      { s with eng := (classify s.table B s.eng s.len).eng, len := (classify s.table B s.eng s.len).len }) := rfl

/-! ### The least length of a Chart frame (R87) -/

/-- The first byte of a field is its low byte. -/
theorem getElem?_of_fieldAt {a : Nat} {v : Word16} (field : fieldAt B a v) : B[a]? = some (v.truncate 8) := by
  have first := congrArg (·[0]?) field
  simpa using first

/-- A declared length from 4 to 9 puts the checksum inside the header, and there its low byte is never that of the
checksum of the bytes before it. -/
theorem chartHeader_getElem?_ne_x25 : ∀ L < 10, 4 ≤ L → (chartHeader (BitVec.ofNat 16 L))[L - 4]? ≠
    some ((x25 ((chartHeader (BitVec.ofNat 16 L)).take (L - 4))).truncate 8) := by
  decide +kernel

theorem ten_le_declaredLength (begins : BeginsChart B) (valid : ChecksumValid builtTable B) :
    10 ≤ declaredLength B := by
  obtain ⟨L, rest, rfl⟩ := beginsChart_iff_header.1 begins
  obtain ⟨-, covers, within, residue, -⟩ := valid
  have received := getElem?_of_fieldAt ((crcAfter_eq_residue_iff_fieldAt covers within).1 residue)
  have header : (chartHeader L).length = 6 := by simp [chartHeader, le16Bytes]
  simp only [coveredLength, declaredLength_chartHeader_append] at covers received ⊢
  by_contra below
  rw [show ((L.toNat : Int) - 2 - 2).toNat = L.toNat - 4 by omega, List.getElem?_append_left (by omega),
    List.take_append_of_le_length (by omega)] at received
  have differs := chartHeader_getElem?_ne_x25 L.toNat (by omega) (by omega)
  rw [BitVec.ofNat_toNat, BitVec.setWidth_eq] at differs
  exact differs received

end Sys2Proof.Machine

namespace Sys2Proof.Proofs

open Sys2Proof Sys2Proof.Machine

/-- Settles O19: the verdict is the one the rules give, with the cause None exactly for a kind. -/
theorem classifyVerdict : Obligations.ClassifyVerdict := by
  intro s B
  obtain ⟨kind, cause, length⟩ := classify_verdictIs s.table B s.eng s.len
  obtain ⟨-, -, none_iff⟩ := classify_cause s.table B s.eng s.len
  exact ⟨_, _, _, exec_classify s B, rfl, kind, cause, none_iff, length, rfl⟩

/-- Settles O21: the header's own bytes are no checksum of it, and the checksum lies within the sequence. -/
theorem chartVerdictHasLengthTenOrMore : Obligations.ChartVerdictHasLengthTenOrMore := by
  intro s t B built run verdict
  obtain ⟨chart, -⟩ := exec_classify_verdict_iff.1 ⟨t, run, verdict⟩
  have requirements := (classify_verdictIs s.table B s.eng s.len).kind
  rw [chart, built] at requirements
  obtain ⟨begins, -, -, valid⟩ := requirements
  have ⟨_, _, within, _⟩ := valid
  refine ⟨ten_le_declaredLength begins valid, ?_⟩
  rw [coveredLength] at within
  omega

end Sys2Proof.Proofs
end

section
/-! PROOFS. A ChartDisplay frame on the wire (R53, R87, R101): whatever stands behind its ten bytes, a buffer that ends
in the trailer passes every test, and a delivery of it is noticed and cleared; with O45. -/

namespace Sys2Proof.Machine

/-! ### A ChartDisplay buffer -/

/-- R86: what a ChartDisplay verdict leaves. -/
theorem classify_of_isChartDisplay {T : CrcTable} {B : List Byte} {eng : Engine} {len : Int}
    (display : IsChartDisplay T B) : classify T B eng len =
      ⟨(ckValid T B eng (coveredLength B)).eng, coveredLength B, .chartDisplay, .none⟩ := by
  obtain ⟨begins, ten, ends, valid⟩ := display
  have ⟨four, _, within, _⟩ := valid
  have trailer : ¬ (!trailerOk B) = true := mt not_trailerOk_iff_not_ends.1 (not_not.2 ends)
  have not_ch : ¬ sigCh B = true := fun ch => not_sigCh_and_sigCd B ⟨ch, sigCd_iff_begins.2 begins⟩
  rw [classify_of_beginsChecked (.inr begins), if_neg (by omega), if_neg trailer, if_neg (by omega),
    if_pos ((ckValid_ok_iff four eng _).2 valid), checkedKind, if_neg not_ch]
  rfl

/-- R96: a delivery that fits and whose first pass stops is that pass. -/
theorem deliver_of_first_pass_stops {s t : State} {D : List Byte} (fits : Fits s D)
    (stops : deliverPass { s with buf := s.buf ++ D } = (t, .stop)) : deliver D s = t := by
  rw [deliver_of_fits fits]
  refine (deliverLoop_unfold { s with buf := s.buf ++ D }).trans ?_
  rw [stops]

/-- R96 to R101: a delivery that completes a ChartDisplay buffer ends in its first pass, and clears all of it. -/
theorem deliver_of_isChartDisplay {s : State} {D : List Byte} (fits : Fits s D)
    (display : IsChartDisplay s.table (s.buf ++ D)) : deliver D s = { s with
      buf := [], miss := 0, kind := .chartDisplay, cause := .none, result := .decoded, phase := .idle
      eng := (ckValid s.table (s.buf ++ D) s.eng (coveredLength (s.buf ++ D))).eng
      len := coveredLength (s.buf ++ D)
      events := s.events ++ [.frameCd] } := by
  have classified : classifyBuffer { s with buf := s.buf ++ D } = { s with
      buf := s.buf ++ D, phase := .classifying, kind := .chartDisplay, cause := .none
      eng := (ckValid s.table (s.buf ++ D) s.eng (coveredLength (s.buf ++ D))).eng
      len := coveredLength (s.buf ++ D) } := by
    simp only [classifyBuffer, classify_of_isChartDisplay display]
  have kind : (classifyBuffer { s with buf := s.buf ++ D }).kind = kindOf .chartDisplay := by rw [classified]; rfl
  refine deliver_of_first_pass_stops fits ?_
  rw [deliverPass_of_kindOf kind, determined, classified]
  rfl

/-! ### The frame with bytes behind it (R87) -/

/-- The wire bytes behind the signature: the checksum, anything, and the trailer. -/
def chartDisplayRest (behind : List Byte) : List Byte := [0xBE, 0x2F] ++ behind ++ [0x0D, 0x0A]

/-- The length field of the signature covers the signature and the checksum. -/
theorem coveredLength_sigCdBytes_append (rest : List Byte) : coveredLength (sigCdBytes ++ rest) = 8 := rfl

theorem x25_sigCdBytes : x25 sigCdBytes = 0x2FBE := by decide +kernel

theorem checksumValid_chartDisplay (behind : List Byte) :
    ChecksumValid builtTable (sigCdBytes ++ chartDisplayRest behind) := by
  have length : 8 ≤ (sigCdBytes ++ chartDisplayRest behind).length := by simp [sigCdBytes, chartDisplayRest]
  refine checksumValid_of_fieldAt (by omega) ?_ ?_ ?_ <;> rw [coveredLength_sigCdBytes_append]
  · decide
  · exact_mod_cast length
  · rw [show (sigCdBytes ++ chartDisplayRest behind).take (8 - 2 : Int).toNat = sigCdBytes from rfl, x25_sigCdBytes]
    rfl

theorem isChartDisplay_chartDisplay (behind : List Byte) :
    IsChartDisplay builtTable (sigCdBytes ++ chartDisplayRest behind) := by
  refine ⟨⟨_, rfl⟩, ?_, ?_, checksumValid_chartDisplay behind⟩
  · simp [sigCdBytes, chartDisplayRest]
  · exact (List.suffix_append _ _).trans (List.suffix_append _ _)

end Sys2Proof.Machine

namespace Sys2Proof.Proofs

open Sys2Proof Sys2Proof.Machine

/-- Settles O45: the buffer is the frame with the bytes behind it, and is of the kind ChartDisplay. -/
theorem chartDisplayFrameIsNoticed : Obligations.ChartDisplayFrameIsNoticed := by
  intro s behind built empty unbounded
  have display : IsChartDisplay s.table (s.buf ++ (sigCdBytes ++ chartDisplayRest behind)) := by
    rw [built, empty, List.nil_append]
    exact isChartDisplay_chartDisplay behind
  refine ⟨_, exec_frameCd s (chartDisplayRest behind), ?_⟩
  rw [deliver_of_isChartDisplay (fits_of_unbounded unbounded _) display]

end Sys2Proof.Proofs
end

section
/-! PROOFS. The byte buffer's operations run alone (R90 to R93): a batch goes to the back or is refused whole, bytes
leave at the front alone, and none outlasts a `CLEAR`; with O23 to O27. -/

namespace Sys2Proof.Machine

/-! ### Beyond a finite capacity (R91) -/

theorem not_fits_of_beyond {s : State} {D : List Byte} {cap : Nat} (finite : s.bufCap = some cap)
    (beyond : cap < s.buf.length + D.length) : ¬ Fits s D := by
  simpa only [Fits, finite, not_le] using beyond

/-- R22, R91: the overflow bit as the statements write it, bit 0 put in. -/
theorem setOverflow_eq (f : BitVec 2) : setOverflow f = f ||| 0b01 := rfl

/-! ### The operations run alone -/

theorem exec_append_of_fits {s : State} {D : List Byte} (fits : Fits s D) :
    exec (.append D) s = .next { s with buf := s.buf ++ D } := by
  rw [show exec (.append D) s = .next (appendBatch D s).1 from rfl, appendBatch_of_fits fits]

theorem exec_append_of_not_fits {s : State} {D : List Byte} (unfit : ¬ Fits s D) :
    exec (.append D) s = .next { s with fault := setOverflow s.fault, result := .refused } := by
  rw [show exec (.append D) s = .next (appendBatch D s).1 from rfl, appendBatch_of_not_fits unfit]

/-- R92: within the buffer the guard of `TRUNC` lets the count through. -/
theorem exec_trunc_of_within {s : State} {k : Nat} (within : k ≤ s.buf.length) :
    exec (.trunc k) s = .next (truncBuf k s) :=
  if_neg (not_lt.2 within)

theorem exec_clear (s : State) : exec .clear s = .next (clearBuf s) := rfl

/-! ### An empty buffer -/

/-- R33: an empty buffer holds no byte at any address. -/
theorem memRead1_nil (a : Nat) : memRead1 [] a = none := rfl

end Sys2Proof.Machine

namespace Sys2Proof.Proofs

open Sys2Proof Sys2Proof.Machine

/-- Settles O23: a read of the concatenation is one of its front or one of its back. -/
theorem appendResult : Obligations.AppendResult :=
  fun s D fits => ⟨{ s with buf := s.buf ++ D }, exec_append_of_fits fits, rfl, List.length_append,
    memRead1_append_left s.buf D, memRead1_append_right s.buf D⟩

/-- Settles O24: beyond the capacity the batch does not fit, and without one every batch does. -/
theorem deliverBeyondCapacityIsRefusedWhole : Obligations.DeliverBeyondCapacityIsRefusedWhole := by
  refine ⟨fun s D cap finite beyond => ?_, fun s D unbounded => ?_⟩
  · rw [exec_deliver, deliver_of_not_fits (not_fits_of_beyond finite beyond), setOverflow_eq]
  · exact exec_append_of_fits (fits_of_unbounded unbounded D)

/-- Settles O25: a unit `APPEND` shares the refusal with a delivery. -/
theorem appendBeyondCapacityIsRefusedWhole : Obligations.AppendBeyondCapacityIsRefusedWhole := by
  intro s D cap finite beyond
  rw [exec_append_of_not_fits (not_fits_of_beyond finite beyond), setOverflow_eq]

/-- Settles O26: within the buffer a truncation drops `k` bytes, and a read behind it is `k` addresses up. -/
theorem truncResult : Obligations.TruncResult := by
  intro s k within
  refine ⟨truncBuf k s, exec_trunc_of_within within, rfl, ?_, memRead1_drop s.buf k⟩
  rw [truncBuf_buf, List.length_drop, Nat.sub_add_cancel within]

/-- Settles O27: `CLEAR` leaves the empty buffer, where a read finds nothing. -/
theorem clearResult : Obligations.ClearResult :=
  fun s => ⟨clearBuf s, exec_clear s, rfl, memRead1_nil⟩

end Sys2Proof.Proofs
end

section
/-! PROOFS. The state machine's operations run alone (R98 to R102, R106): the verdict on no bytes, `MISSUPD` by its
three outcomes, and `DISPATCH` case by case, with a Chart frame's three branches by its declared length; with O22 and
O29 to O32. -/

namespace Sys2Proof.Machine

/-- R87, R106: no bytes are an incomplete frame. -/
theorem classify_nil (T : CrcTable) (eng : Engine) (len : Int) :
    classify T [] eng len = ⟨eng, len, .unknown, .incompleteFrame⟩ := rfl

/-! ### `MISSUPD` (R98) -/

theorem exec_missupd (k : Kind) (s : State) : exec (.missupd k) s = .next (missUpdate k s).1 := rfl

theorem missUpdate_of_ne_unknown {k : Kind} (determined_kind : k ≠ .unknown) (s : State) :
    missUpdate k s = ({ s with miss := 0, phase := .complete }, .proceed) := by
  rcases missUpdate_cases k s with ⟨-, h⟩ | ⟨unknown, -⟩ | ⟨unknown, -⟩
  · exact h
  · exact absurd unknown determined_kind
  · exact absurd unknown determined_kind

/-- R17: the counter holds two bits, and the third miss is the one that finds 2 there. -/
theorem miss_add_one_eq_three_iff {m : BitVec 2} : m + 1 = 3 ↔ m.toNat = 2 := by
  constructor <;> intro h <;> bv_omega

theorem miss_add_one_toNat {m : BitVec 2} (below : m.toNat < 2) : (m + 1).toNat = m.toNat + 1 := by
  bv_omega

/-! ### `DISPATCH` (R99 to R102) -/

theorem exec_dispatch_batteryInfo (s : State) :
    exec (.dispatch .batteryInfo) s = .next (dispatchBatteryInfo s).1 := rfl

theorem exec_dispatch_chartDisplay (s : State) :
    exec (.dispatch .chartDisplay) s = .next (dispatchChartDisplay s).1 := rfl

/-- R52, R102: a declared length that an `RX_DROP` can carry passes the guard. -/
theorem exec_dispatch_chart_of_in_range {s : State} (low : 4 ≤ s.len + 2) (high : s.len + 2 ≤ 65535) :
    exec (.dispatch .chart) s = .next (dispatchChart s).1 := by
  refine if_neg ?_
  rintro ⟨-, -, outside⟩
  rw [(dropCountOk_iff _).2 ⟨low, high⟩] at outside
  cases outside

section
variable {s : State} {L : Nat} (length : s.len + 2 = L)
include length

theorem chartConsumed_eq : chartConsumed s = { s with
    buf := s.buf.drop L, events := s.events ++ [.frameChart (s.buf.take L), .rxDrop L] } := by
  simp [chartConsumed, length, emit, truncBuf]

/-- R102: a frame of declared length `L` with fewer bytes there. -/
theorem dispatchChart_of_length_lt (short : s.buf.length < L) : dispatchChart s =
    ({ s with buf := [], cause := .partialChartFrame, result := .partialDiscard, phase := .idle }, .stop) :=
  dispatchChart_of_short (by omega)

/-- R102: a frame of declared length `L` with more bytes there. -/
theorem dispatchChart_of_lt_length (more : L < s.buf.length) : dispatchChart s =
    ({ s with
        buf := s.buf.drop L, events := s.events ++ [.frameChart (s.buf.take L), .rxDrop L] }, .proceed) := by
  have remains : ¬ (chartConsumed s).buf.isEmpty = true := by
    rw [chartConsumed_eq length, List.isEmpty_iff, List.drop_eq_nil_iff]
    exact not_le.2 more
  rw [dispatchChart_of_more (by omega) remains, chartConsumed_eq length]

end

end Sys2Proof.Machine

namespace Sys2Proof.Proofs

open Sys2Proof Sys2Proof.Machine

/-- Settles O22: the verdict on no bytes, with the scratch registers as they were. -/
theorem emptyBufferIsNeverAMatch : Obligations.EmptyBufferIsNeverAMatch := by
  intro s
  rw [exec_classify, classify_nil]
  rfl

/-- Settles O29, outcome by outcome. -/
theorem missupdResult : Obligations.MissupdResult := by
  refine ⟨fun s k determined_kind => ?_, fun s below => ?_, fun s two => ?_⟩
  · rw [exec_missupd, missUpdate_of_ne_unknown determined_kind]
  · have not_third : s.miss + 1 ≠ 3 := fun third => by
      have := miss_add_one_eq_three_iff.1 third
      omega
    refine ⟨_, exec_missupd .unknown s, ?_⟩
    rw [missUpdate_unknown_of_not_third not_third]
    exact ⟨miss_add_one_toNat below, rfl⟩
  · rw [exec_missupd, missUpdate_unknown_of_third (miss_add_one_eq_three_iff.2 two)]

/-- Settles O30: the event, the cleared buffer and the ending, and no other write. -/
theorem dispatchBatteryInfoResult : Obligations.DispatchBatteryInfoResult := exec_dispatch_batteryInfo

/-- Settles O31, likewise. -/
theorem dispatchChartDisplayResult : Obligations.DispatchChartDisplayResult := exec_dispatch_chartDisplay

/-- Settles O32: the guard passes, and the buffer is shorter than `L`, `L` bytes, or longer. -/
theorem dispatchChartResult : Obligations.DispatchChartResult := by
  intro s L len low high
  have length : s.len + 2 = L := by omega
  rw [exec_dispatch_chart_of_in_range (by omega) (by omega)]
  refine ⟨fun short => ?_, fun whole => ?_, fun more => ?_⟩
  · rw [dispatchChart_of_length_lt length short]
  · rw [dispatchChart_of_whole (by omega), whole]
  · rw [dispatchChart_of_lt_length length more]

end Sys2Proof.Proofs
end

section
/-! PROOFS. One pass of a delivery by the kind of its bytes (R96 to R102): a miss, a buffer handed over whole, a Chart
frame cut short, or one with bytes behind it; with O34 to O37 and O42. -/

namespace Sys2Proof.Machine

/-! ### The verdict of a pass -/

/-- R86: a sequence has one kind, and the classifier answers it. -/
theorem classify_kind_of_kindIs {T : CrcTable} {B : List Byte} {k : Kind} (kind : KindIs T B k) (eng : Engine)
    (len : Int) : (classify T B eng len).kind = k := by
  cases k with
  | unknown =>
    rcases kind_eq_unknown_or_kindOf (classify T B eng len).kind with unknown | ⟨k, verdict⟩
    · exact unknown
    · have requirements := (classify_verdictIs T B eng len).kind
      rw [verdict] at requirements
      exact absurd kind (not_isUnknown_of_kindIs_kindOf requirements)
  | batteryInfo =>
    obtain ⟨begins, nine, ends⟩ := kind
    rw [classify_of_batteryInfo (sigBi_iff_begins.2 begins) nine (trailerOk_iff_ends.2 ends)]
  | chart =>
    obtain ⟨begins, ten, ends, valid⟩ := kind
    rw [classify_of_chart (sigCh_iff_begins.2 begins) ten (trailerOk_iff_ends.2 ends) valid]
  | chartDisplay => rw [classify_of_isChartDisplay kind]

theorem classifyBuffer_verdictIs (s : State) : KindIs s.table s.buf (classifyBuffer s).kind ∧
    CauseIs s.table s.buf (classifyBuffer s).cause := by
  obtain ⟨kind, cause, -⟩ := classify_verdictIs s.table s.buf s.eng s.len
  exact ⟨kind, cause⟩

theorem classifyBuffer_kind_of_kindIs {s : State} {k : Kind} (kind : KindIs s.table s.buf k) :
    (classifyBuffer s).kind = k := classify_kind_of_kindIs kind s.eng s.len

/-- R97: a pass whose bytes are of no kind, before it counts the miss. -/
theorem classifyBuffer_eq_of_isUnknown {s : State} (unknown : IsUnknown s.table s.buf) : classifyBuffer s = { s with
    kind := .unknown, cause := (classifyBuffer s).cause, phase := .classifying
    eng := (classifyBuffer s).eng, len := (classifyBuffer s).len } := by
  have verdict := classifyBuffer_kind_of_kindIs (k := .unknown) unknown
  calc classifyBuffer s = { s with
        kind := (classifyBuffer s).kind, cause := (classifyBuffer s).cause, phase := .classifying
        eng := (classifyBuffer s).eng, len := (classifyBuffer s).len } := rfl
    _ = _ := by rw [verdict]

/-- R96 to R98: in a pass of a determined kind, what stands when it is dispatched. -/
theorem determined_eq {s : State} {k : FrameKind} (kind : KindIs s.table s.buf (kindOf k)) : determined s = { s with
    miss := 0, kind := kindOf k, cause := .none, phase := .complete
    eng := (determined s).eng, len := (determined s).len } := by
  have verdict := classifyBuffer_kind_of_kindIs kind
  have no_cause : (classifyBuffer s).cause = .none :=
    (classifyBuffer_cause s).2.2 (by rw [verdict]; cases k <;> simp [kindOf])
  calc determined s = { s with
        miss := 0, kind := (classifyBuffer s).kind, cause := (classifyBuffer s).cause, phase := .complete
        eng := (determined s).eng, len := (determined s).len } := rfl
    _ = _ := by rw [verdict, no_cause]

/-- R16, R102: a Chart verdict leaves in `LEN` the declared length less two. -/
theorem determined_len_of_chart {s : State} (chart : IsChart s.table s.buf) :
    (determined s).len + 2 = declaredLength s.buf := by
  have covered : (determined s).len = coveredLength s.buf :=
    (classify_verdictIs s.table s.buf s.eng s.len).len (.inl (classify_kind_of_kindIs (k := .chart) chart _ _))
  rw [covered, coveredLength]
  omega

/-! ### What a pass does -/

/-- The state behind a whole buffer of the kind `k` handed over (R100 to R102). -/
def handedOver (k : FrameKind) (s : State) : State :=
  { determined s with
    buf := [], result := .decoded, phase := .idle, events := s.events ++ handOver (kindOf k) s.buf }

/-- The state behind a Chart frame cut short (R102). -/
def cutShort (s : State) : State :=
  { determined s with buf := [], cause := .partialChartFrame, result := .partialDiscard, phase := .idle }

/-- The state behind a Chart frame consumed with bytes behind it (R102). -/
def frontConsumed (s : State) : State :=
  { determined s with
    buf := s.buf.drop (declaredLength s.buf)
    events := s.events ++ [.frameChart (s.buf.take (declaredLength s.buf)), .rxDrop (declaredLength s.buf)] }

theorem deliverPass_of_isUnknown {s : State} (unknown : IsUnknown s.table s.buf) :
    deliverPass s = missUpdate .unknown (classifyBuffer s) :=
  deliverPass_of_unknown (classifyBuffer_kind_of_kindIs (k := .unknown) unknown)

theorem deliverPass_of_kindIs {s : State} {k : FrameKind} (kind : KindIs s.table s.buf (kindOf k)) :
    deliverPass s = dispatch k (determined s) := deliverPass_of_kindOf (classifyBuffer_kind_of_kindIs kind)

/-- R100 to R102: a buffer of a determined kind, a Chart frame without bytes behind it, is handed over whole. -/
theorem deliverPass_of_whole {s : State} {k : FrameKind} (kind : KindIs s.table s.buf (kindOf k))
    (whole : k = .chart → s.buf.length = declaredLength s.buf) :
    deliverPass s = (handedOver k s, .stop) := by
  rw [deliverPass_of_kindIs kind]
  cases k with
  | batteryInfo => rfl
  | chartDisplay => rfl
  | chart =>
    have length := determined_len_of_chart kind
    rw [← whole rfl] at length
    exact dispatchChart_of_whole (s := determined s) length

section
variable {s : State} (chart : IsChart s.table s.buf)
include chart

/-- R102: a Chart frame cut short is discarded. -/
theorem deliverPass_of_short_chart (short : s.buf.length < declaredLength s.buf) :
    deliverPass s = (cutShort s, .stop) :=
  (deliverPass_of_kindIs (k := .chart) chart).trans
    (dispatchChart_of_length_lt (determined_len_of_chart chart) short)

/-- R102: a Chart frame with bytes behind it is consumed, and the loop goes on. -/
theorem deliverPass_of_longer_chart (more : declaredLength s.buf < s.buf.length) :
    deliverPass s = (frontConsumed s, .proceed) :=
  (deliverPass_of_kindIs (k := .chart) chart).trans
    (dispatchChart_of_lt_length (determined_len_of_chart chart) more)

end

/-- R96 to R102: everything a pass can do. -/
theorem deliverPass_outcomes (s : State) :
    (IsUnknown s.table s.buf ∧ deliverPass s = missUpdate .unknown (classifyBuffer s)) ∨
    (∃ k, KindIs s.table s.buf (kindOf k) ∧ (k = .chart → s.buf.length = declaredLength s.buf) ∧
      deliverPass s = (handedOver k s, .stop)) ∨
    (IsChart s.table s.buf ∧ s.buf.length < declaredLength s.buf ∧ deliverPass s = (cutShort s, .stop)) ∨
    (IsChart s.table s.buf ∧ declaredLength s.buf < s.buf.length ∧ deliverPass s = (frontConsumed s, .proceed)) := by
  obtain ⟨kind, -⟩ := classifyBuffer_verdictIs s
  rcases kind_eq_unknown_or_kindOf (classifyBuffer s).kind with verdict | ⟨k, verdict⟩ <;> rw [verdict] at kind
  · exact .inl ⟨kind, deliverPass_of_isUnknown kind⟩
  by_cases whole : k = .chart → s.buf.length = declaredLength s.buf
  · exact .inr (.inl ⟨k, kind, whole, deliverPass_of_whole kind whole⟩)
  obtain ⟨rfl, differs⟩ := Classical.not_imp.1 whole
  rcases Nat.lt_or_gt_of_ne differs with short | more
  · exact .inr (.inr (.inl ⟨kind, short, deliverPass_of_short_chart kind short⟩))
  · exact .inr (.inr (.inr ⟨kind, more, deliverPass_of_longer_chart kind more⟩))

theorem missUpdate_unknown_stops (s : State) : (missUpdate .unknown s).2 = .stop := by
  rcases missUpdate_cases .unknown s with ⟨determined_kind, -⟩ | ⟨-, -, h⟩ | ⟨-, -, h⟩
  · exact absurd rfl determined_kind
  · rw [h]
  · rw [h]

/-- R103: only a Chart frame with bytes behind it makes the loop go on. -/
theorem deliverPass_eq_proceed {s s' : State} (goes_on : deliverPass s = (s', .proceed)) :
    IsChart s.table s.buf ∧ declaredLength s.buf < s.buf.length ∧ s' = frontConsumed s := by
  rcases deliverPass_outcomes s with ⟨-, h⟩ | ⟨k, -, -, h⟩ | ⟨-, -, h⟩ | ⟨chart, more, h⟩ <;> rw [h] at goes_on
  · have stops := missUpdate_unknown_stops (classifyBuffer s)
    rw [goes_on] at stops
    cases stops
  · cases goes_on
  · cases goes_on
  · exact ⟨chart, more, (congrArg Prod.fst goes_on).symm⟩

/-! ### A delivery by its first pass -/

section
variable {s : State} {D : List Byte} (fits : Fits s D)
include fits

/-- R98: a first or second miss keeps the bytes. -/
theorem deliver_of_miss (unknown : IsUnknown s.table (s.buf ++ D)) (not_third : s.miss + 1 ≠ 3) : deliver D s =
    { classifyBuffer { s with buf := s.buf ++ D } with miss := s.miss + 1, result := .waiting, phase := .idle } :=
  deliver_of_first_pass_stops fits ((deliverPass_of_isUnknown unknown).trans
    (missUpdate_unknown_of_not_third (s := classifyBuffer { s with buf := s.buf ++ D }) not_third))

/-- R98, R116: the third recovers. -/
theorem deliver_of_third_miss (unknown : IsUnknown s.table (s.buf ++ D)) (third : s.miss + 1 = 3) : deliver D s =
    { classifyBuffer { s with buf := s.buf ++ D } with
      buf := [], miss := 0, result := .desync, phase := .idle, events := s.events ++ [.rxClear] } :=
  deliver_of_first_pass_stops fits ((deliverPass_of_isUnknown unknown).trans
    (missUpdate_unknown_of_third (s := classifyBuffer { s with buf := s.buf ++ D }) third))

/-- R103: behind a pass that goes on, a delivery ends as one of nothing does from there. -/
theorem deliver_of_first_pass_proceeds {t : State} (goes_on : deliverPass { s with buf := s.buf ++ D } = (t, .proceed))
    (room : Fits t []) : deliver D s = deliver [] t := by
  have loop : deliver D s = deliverLoop (t.buf.length + 1) t := by
    rw [deliver_of_fits fits]
    refine (deliverLoop_unfold { s with buf := s.buf ++ D }).trans ?_
    rw [goes_on]
  rw [loop, deliver_of_fits room, List.append_nil]

end

/-- R91: what is left of a buffer that fits has room. -/
theorem fits_nil_of_shorter {s t : State} {D : List Byte} (fits : Fits s D) (same_cap : t.bufCap = s.bufCap)
    (shorter : t.buf.length ≤ s.buf.length + D.length) : Fits t [] := by
  cases cap : s.bufCap with
  | none => exact fits_of_unbounded (same_cap.trans cap) []
  | some c =>
    simp only [Fits, cap] at fits
    simp only [Fits, same_cap.trans cap, List.length_nil]
    omega

/-! ### A run of misses (R98, R117) -/

/-- A state of a block without a capacity, after `m` consecutive misses on the bytes `B`. -/
structure AtMiss (T : CrcTable) (events : List Event) (B : List Byte) (m : BitVec 2) (s : State) : Prop where
  table : s.table = T
  events : s.events = events
  buf : s.buf = B
  miss : s.miss = m
  unbounded : s.bufCap = none

theorem AtMiss.after_miss {T : CrcTable} {events : List Event} {B D : List Byte} {m : BitVec 2} {s : State}
    (h : AtMiss T events B m s) (unknown : IsUnknown T (B ++ D)) (not_third : m + 1 ≠ 3) :
    AtMiss T events (B ++ D) (m + 1) (deliver D s) ∧ (deliver D s).result = .waiting := by
  obtain ⟨rfl, rfl, rfl, rfl, unbounded⟩ := h
  rw [deliver_of_miss (fits_of_unbounded unbounded D) unknown not_third]
  exact ⟨⟨rfl, rfl, rfl, rfl, unbounded⟩, rfl⟩

theorem AtMiss.after_third_miss {T : CrcTable} {events : List Event} {B D : List Byte} {m : BitVec 2} {s : State}
    (h : AtMiss T events B m s) (unknown : IsUnknown T (B ++ D)) (third : m + 1 = 3) :
    AtMiss T (events ++ [.rxClear]) [] 0 (deliver D s) ∧ (deliver D s).result = .desync := by
  obtain ⟨rfl, rfl, rfl, rfl, unbounded⟩ := h
  rw [deliver_of_third_miss (fits_of_unbounded unbounded D) unknown third]
  exact ⟨⟨rfl, rfl, rfl, rfl, unbounded⟩, rfl⟩

end Sys2Proof.Machine

namespace Sys2Proof.Proofs

open Sys2Proof Sys2Proof.Machine

/-- Settles O34: the first pass is a miss, which ends the delivery either way. -/
theorem deliverMissWaitsOrRecovers : Obligations.DeliverMissWaitsOrRecovers := by
  intro s D _ fits unknown
  have missed := classifyBuffer_eq_of_isUnknown (s := { s with buf := s.buf ++ D }) unknown
  obtain ⟨-, cause⟩ := classifyBuffer_verdictIs { s with buf := s.buf ++ D }
  refine ⟨deliver D s, exec_deliver s D, ?_⟩
  by_cases third : s.miss + 1 = 3
  · have two := miss_add_one_eq_three_iff.1 third
    rw [deliver_of_third_miss fits unknown third]
    exact ⟨cause, fun _ => by rw [missed], fun below => by omega⟩
  · have not_two := mt miss_add_one_eq_three_iff.2 third
    rw [deliver_of_miss fits unknown third]
    exact ⟨cause, fun two => absurd two not_two, fun below => ⟨miss_add_one_toNat below, by rw [missed]⟩⟩

/-- Settles O35: the requirements of the kind are the classifier's tests. -/
theorem deliverCompletesBatteryInfo : Obligations.DeliverCompletesBatteryInfo := by
  rintro s D fits ⟨begins, nine, ends⟩
  rw [exec_deliver, deliver_of_batteryInfo fits (sigBi_iff_begins.2 begins) nine (trailerOk_iff_ends.2 ends)]

/-- Settles O36: the first pass notices the frame and clears the buffer. -/
theorem deliverCompletesChartDisplay : Obligations.DeliverCompletesChartDisplay := by
  intro s D fits display
  refine ⟨deliver D s, exec_deliver s D, ?_⟩
  rw [deliver_of_isChartDisplay fits display]

/-- Settles O37: the first pass discards the frame, hands it over as the last, or consumes it and goes on. -/
theorem deliverConsumesChart : Obligations.DeliverConsumesChart := by
  intro s D fits chart
  have dispatched := determined_eq (s := { s with buf := s.buf ++ D }) (k := .chart) chart
  simp only [exec_deliver]
  refine ⟨fun short => ?_, fun whole => ?_, fun more => ?_⟩
  · refine ⟨_, rfl, ?_⟩
    rw [deliver_of_first_pass_stops fits (deliverPass_of_short_chart chart short), cutShort, dispatched]
    rfl
  · refine ⟨_, rfl, ?_⟩
    rw [deliver_of_first_pass_stops fits (deliverPass_of_whole (k := .chart) chart fun _ => whole), handedOver,
      dispatched, ← whole]
    rfl
  · refine ⟨_, congrArg _ (deliver_of_first_pass_proceeds fits (deliverPass_of_longer_chart chart more)
      (fits_nil_of_shorter fits rfl ?_)), ?_⟩
    · rw [← List.length_append]
      exact (List.drop_sublist _ _).length_le
    · rw [frontConsumed, dispatched]
      rfl

/-- Settles O42: two misses that wait, one that recovers, and one that waits from the emptied buffer. -/
theorem threeMissesRecoverAndTheFourthStartsAfresh : Obligations.ThreeMissesRecoverAndTheFourthStartsAfresh := by
  intro s D1 D2 D3 D4 miss unbounded unknown1 unknown2 unknown3 unknown4
  have start : AtMiss s.table s.events s.buf 0 s := ⟨rfl, rfl, rfl, miss, unbounded⟩
  obtain ⟨one, -⟩ := start.after_miss unknown1 (by decide)
  obtain ⟨two, -⟩ := one.after_miss unknown2 (by decide)
  obtain ⟨recovered, desync⟩ := two.after_third_miss unknown3 (by decide)
  obtain ⟨afresh, waiting⟩ := recovered.after_miss (D := D4) unknown4 (by decide)
  exact ⟨_, _, _, _, exec_deliver s D1, exec_deliver _ D2, exec_deliver _ D3, exec_deliver _ D4, one.buf, one.miss,
    two.buf, two.miss, recovered.buf, recovered.miss, desync, recovered.events, afresh.buf, afresh.miss, waiting,
    afresh.events.trans recovered.events.symm⟩

end Sys2Proof.Proofs
end

section
/-! PROOFS. How a delivery ends (R96 to R105): the Chart frames it consumes, then the one pass that stops; with O38 and
O39. -/

namespace Sys2Proof.Machine

/-! ### The declared front of a Chart buffer -/

/-- The bytes are the front, of the declared length, of a buffer with a Chart verdict (R102). -/
def IsChartFront (T : CrcTable) (f : List Byte) : Prop :=
  ∃ B, IsChart T B ∧ declaredLength B ≤ B.length ∧ f = B.take (declaredLength B)

theorem declaredLength_take {B : List Byte} {n : Nat} (four : 4 ≤ n) :
    declaredLength (B.take n) = declaredLength B := by
  have two : 2 < n := by omega
  have three : 3 < n := by omega
  simp only [declaredLength, List.getD_eq_getElem?_getD, List.getElem?_take_of_lt, two, three]

/-- R77: the checksum test reads the covered bytes alone. -/
theorem checksumValid_take {T : CrcTable} {B : List Byte} {n : Nat} (valid : ChecksumValid T B) (four : 4 ≤ n)
    (covered : coveredLength B ≤ n) : ChecksumValid T (B.take n) := by
  obtain ⟨four_there, covers, within, residue, received⟩ := valid
  have same : coveredLength (B.take n) = coveredLength B := by
    rw [coveredLength, declaredLength_take four, coveredLength]
  have front_take : ∀ m : Int, m ≤ coveredLength B → (B.take n).take m.toNat = B.take m.toNat := fun m le => by
    rw [List.take_take, min_eq_left (by omega)]
  have checksum : deviceChecksumOf T (B.take n) (coveredLength B) = deviceChecksumOf T B (coveredLength B) := by
    simp only [deviceChecksumOf, front_take (coveredLength B - 2) (by omega)]
  have field : ((B.take n).drop (coveredLength B - 2).toNat).take 2 = (B.drop (coveredLength B - 2).toNat).take 2 := by
    rw [List.drop_take, List.take_take, min_eq_left (by omega)]
  have length : (B.take n).length = min n B.length := List.length_take
  rw [ChecksumValid, same, checksum, fieldAt, field, front_take _ le_rfl]
  exact ⟨by omega, covers, by omega, residue, received⟩

theorem beginsChart_take {B : List Byte} {n : Nat} (begins : BeginsChart B) (six : 6 ≤ n) :
    BeginsChart (B.take n) := by
  obtain ⟨L, rest, rfl⟩ := beginsChart_iff_header.1 begins
  have header : (chartHeader L).length ≤ n := six
  refine beginsChart_iff_header.2 ⟨L, rest.take (n - (chartHeader L).length), ?_⟩
  rw [List.take_append, List.take_of_length_le header]

theorem four_le_declaredLength {T : CrcTable} {B : List Byte} (valid : ChecksumValid T B) :
    4 ≤ declaredLength B := by
  obtain ⟨-, covers, -⟩ := valid
  rw [coveredLength] at covers
  omega

theorem IsChartFront.length_eq {T : CrcTable} {f : List Byte} (front : IsChartFront T f) :
    f.length = declaredLength f := by
  obtain ⟨B, ⟨-, -, -, valid⟩, within, rfl⟩ := front
  rw [declaredLength_take (four_le_declaredLength valid), List.length_take_of_le within]

/-- R87, R104: with the built table the front has all that `FRAME_CHART` promises. -/
theorem IsChartFront.handedChart {f : List Byte} (front : IsChartFront builtTable f) : HandedChart f := by
  have length := front.length_eq
  obtain ⟨B, ⟨begins, -, -, valid⟩, within, rfl⟩ := front
  have ten := ten_le_declaredLength begins valid
  refine ⟨?_, beginsChart_take begins (by omega), length.symm,
    checksumValid_take valid (by omega) (by rw [coveredLength]; omega)⟩
  rwa [List.length_take_of_le within]

/-! ### The passes of a delivery -/

/-- Between `s` and `u` the loop consumed these Chart frames; each has reset the miss counter. -/
structure Consumes (s u : State) (frames : List (List Byte)) : Prop where
  bytes : s.buf = frames.flatten ++ u.buf
  events : u.events = s.events ++ eventsOf frames []
  table : u.table = s.table
  miss : u.miss = if frames = [] then s.miss else 0
  fronts : ∀ f ∈ frames, IsChartFront s.table f

theorem Consumes.none (s : State) : Consumes s s [] := ⟨rfl, by simp [eventsOf], rfl, rfl, nofun⟩

theorem Consumes.cons {s u : State} {frames : List (List Byte)} (chart : IsChart s.table s.buf)
    (more : declaredLength s.buf < s.buf.length) (h : Consumes (frontConsumed s) u frames) :
    Consumes s u (s.buf.take (declaredLength s.buf) :: frames) := by
  obtain ⟨bytes, events, table, miss, fronts⟩ := h
  refine ⟨?_, ?_, table, ?_, List.forall_mem_cons.2 ⟨⟨s.buf, chart, more.le, rfl⟩, fronts⟩⟩
  · calc s.buf = s.buf.take (declaredLength s.buf) ++ (frontConsumed s).buf := (List.take_append_drop _ _).symm
      _ = _ := by rw [bytes, List.flatten_cons, List.append_assoc]
  · rw [events, eventsOf_cons, List.length_take_of_le more.le, ← List.append_assoc]
    rfl
  · rw [miss]
    exact ite_self _

/-- R103: a delivery consumes Chart frames, none or more, and ends in one pass behind them. -/
theorem deliverLoop_consumes_then_stops (s : State) :
    ∃ frames u, Consumes s u frames ∧ deliverPass u = (deliverLoop (s.buf.length + 1) s, .stop) := by
  refine deliverLoop_induct (fun s t => ∃ frames u, Consumes s u frames ∧ deliverPass u = (t, .stop))
    (fun s s' stops => ⟨[], s, .none s, stops⟩) ?_ s
  rintro s s' t goes_on ⟨frames, u, consumes, stops⟩
  obtain ⟨chart, more, rfl⟩ := deliverPass_eq_proceed goes_on
  exact ⟨_, u, consumes.cons chart more, stops⟩

/-! ### The pass that stops -/

/-- The endings of R105 for a delivery from `s` to `t` that consumed `frames` and classified `last` behind them. -/
def EndsBehind (s t : State) (frames : List (List Byte)) (last : List Byte) : Result → Prop
  | .idle => False
  | .decoded => t.kind ≠ .unknown ∧ t.cause = .none ∧ t.buf = [] ∧ t.miss = 0 ∧
      t.events = s.events ++ eventsOf frames (handOver t.kind last)
  | .waiting => t.kind = .unknown ∧ CauseIs s.table last t.cause ∧ t.buf = last ∧
      t.miss.toNat = (if frames = [] then s.miss.toNat + 1 else 1) ∧
      (t.miss.toNat = 1 ∨ t.miss.toNat = 2) ∧ t.events = s.events ++ eventsOf frames []
  | .desync => t.kind = .unknown ∧ CauseIs s.table last t.cause ∧ frames = [] ∧ s.miss.toNat = 2 ∧
      t.buf = [] ∧ t.miss = 0 ∧ t.events = s.events ++ [.rxClear]
  | .partialDiscard => t.kind = .chart ∧ t.cause = .partialChartFrame ∧
      last.length < declaredLength last ∧ t.buf = [] ∧ t.miss = 0 ∧
      t.events = s.events ++ eventsOf frames []
  | .refused => False

section
variable {s u t : State} {frames : List (List Byte)} (h : Consumes s u frames)
include h

/-- R98: a third miss comes behind no consumed frame, which would have reset the counter. -/
theorem Consumes.no_frames_of_third (third : u.miss + 1 = 3) : frames = [] ∧ u.miss = s.miss := by
  have miss := h.miss
  split at miss
  next none => exact ⟨none, miss⟩
  next =>
    rw [miss] at third
    exact absurd third (by decide)

theorem Consumes.miss_toNat : u.miss.toNat = if frames = [] then s.miss.toNat else 0 := by
  rw [h.miss, apply_ite BitVec.toNat]
  rfl

/-- The events of the last pass come behind those of the frames. -/
theorem Consumes.events_append (tail : List Event) :
    u.events ++ tail = s.events ++ eventsOf frames tail := by
  simp [h.events, eventsOf]

/-- R98: a miss keeps the bytes not consumed, or, the third, discards them. -/
theorem Consumes.ends_of_miss (miss : s.miss.toNat ≤ 2) (unknown : IsUnknown u.table u.buf)
    (ended : t = (missUpdate .unknown (classifyBuffer u)).1) :
    t.kind = .unknown ∧ EndsBehind s t frames u.buf t.result := by
  have kind : (classifyBuffer u).kind = .unknown := classifyBuffer_kind_of_kindIs (k := .unknown) unknown
  have cause : CauseIs s.table u.buf (classifyBuffer u).cause := h.table ▸ (classifyBuffer_verdictIs u).2
  by_cases third : u.miss + 1 = 3
  · rw [missUpdate_unknown_of_third (s := classifyBuffer u) third] at ended
    obtain ⟨rfl, same_miss⟩ := h.no_frames_of_third third
    have two : s.miss.toNat = 2 := miss_add_one_eq_three_iff.1 (same_miss ▸ third)
    subst ended
    exact ⟨kind, kind, cause, rfl, two, rfl, rfl, h.events_append [.rxClear]⟩
  · rw [missUpdate_unknown_of_not_third (s := classifyBuffer u) third] at ended
    have counted : u.miss.toNat = if frames = [] then s.miss.toNat else 0 := h.miss_toNat
    have not_two := mt miss_add_one_eq_three_iff.2 third
    have one_more : (u.miss + 1).toNat = u.miss.toNat + 1 := miss_add_one_toNat (by split at counted <;> omega)
    have one_or_two : (u.miss + 1).toNat = 1 ∨ (u.miss + 1).toNat = 2 := by split at counted <;> omega
    rw [counted, apply_ite (· + 1)] at one_more
    subst ended
    exact ⟨kind, kind, cause, rfl, one_more, one_or_two, h.events⟩

/-- R105: the last pass ends the delivery. -/
theorem Consumes.ends_of_stop (miss : s.miss.toNat ≤ 2) (stops : deliverPass u = (t, .stop)) :
    KindIs s.table u.buf t.kind ∧ EndsBehind s t frames u.buf t.result := by
  rcases deliverPass_outcomes u with ⟨unknown, pass⟩ | ⟨k, kind, -, pass⟩ | ⟨chart, short, pass⟩ | ⟨-, -, pass⟩ <;>
    rw [pass] at stops
  · obtain ⟨verdict, ends⟩ := h.ends_of_miss miss unknown (congrArg Prod.fst stops).symm
    rw [verdict, ← h.table]
    exact ⟨unknown, ends⟩
  · cases stops
    rw [handedOver, determined_eq kind, ← h.table]
    exact ⟨kind, by cases k <;> simp [kindOf], rfl, rfl, rfl, h.events_append _⟩
  · cases stops
    rw [cutShort, determined_eq (k := .chart) chart, ← h.table]
    exact ⟨chart, rfl, rfl, short, rfl, rfl, h.events⟩
  · cases stops

/-- R104: the events of the whole delivery, with the built table. -/
theorem Consumes.events_of_stop (built : s.table = builtTable) (stops : deliverPass u = (t, .stop)) :
    t.events = s.events ++ [.rxClear] ∨
    ∃ (handed : List (List Byte)) (tail : List Event), t.events = s.events ++ eventsOf handed tail ∧
      (∀ f ∈ handed, HandedChart f) ∧
      (tail = [] ∨ (∃ b, tail = [.frameBi b] ∧ IsBatteryInfo b) ∨ tail = [.frameCd]) := by
  have fronts : ∀ f ∈ frames, HandedChart f := fun f member => (built ▸ h.fronts f member).handedChart
  rcases deliverPass_outcomes u with ⟨-, pass⟩ | ⟨k, kind, whole, pass⟩ | ⟨-, -, pass⟩ | ⟨-, -, pass⟩ <;>
    rw [pass] at stops
  · by_cases third : u.miss + 1 = 3
    · rw [missUpdate_unknown_of_third (s := classifyBuffer u) third] at stops
      cases stops
      obtain ⟨rfl, -⟩ := h.no_frames_of_third third
      exact .inl (h.events_append [.rxClear])
    · rw [missUpdate_unknown_of_not_third (s := classifyBuffer u) third] at stops
      cases stops
      exact .inr ⟨frames, [], h.events, fronts, .inl rfl⟩
  · cases stops
    cases k with
    | batteryInfo => exact .inr ⟨frames, _, h.events_append _, fronts, .inr (.inl ⟨_, rfl, kind⟩)⟩
    | chartDisplay => exact .inr ⟨frames, _, h.events_append _, fronts, .inr (.inr rfl)⟩
    | chart =>
      have front : IsChartFront builtTable u.buf :=
        ⟨u.buf, built ▸ h.table ▸ kind, (whole rfl).ge, by rw [← whole rfl, List.take_length]⟩
      refine .inr ⟨frames ++ [u.buf], [], (h.events_append _).trans ?_, ?_, .inl rfl⟩
      · simp [eventsOf, handOver, kindOf]
      · exact List.forall_mem_append.2 ⟨fronts, List.forall_mem_singleton.2 front.handedChart⟩
  · cases stops
    exact .inr ⟨frames, [], h.events, fronts, .inl rfl⟩
  · cases stops

end

end Sys2Proof.Machine

namespace Sys2Proof.Proofs

open Sys2Proof Sys2Proof.Machine

/-- Settles O38: the loop consumes frames and stops, and its last pass says how. -/
theorem deliverEndings : Obligations.DeliverEndings := by
  intro s D miss
  refine ⟨fun unfit => by rw [exec_deliver, deliver_of_not_fits unfit, setOverflow_eq], fun fits => ?_⟩
  obtain ⟨frames, u, consumes, stops⟩ := deliverLoop_consumes_then_stops { s with buf := s.buf ++ D }
  obtain ⟨kind, ends⟩ := consumes.ends_of_stop miss stops
  refine ⟨deliver D s, frames, u.buf, exec_deliver s D, consumes.bytes,
    fun f member => (consumes.fronts f member).length_eq, ?_⟩
  rw [deliver_of_fits fits]
  exact ⟨kind, ends⟩

/-- Settles O39: a delivery that is refused emits nothing, and any other what its passes emit. -/
theorem deliverEventList : Obligations.DeliverEventList := by
  intro s D built
  by_cases fits : Fits s D
  · obtain ⟨frames, u, consumes, stops⟩ := deliverLoop_consumes_then_stops { s with buf := s.buf ++ D }
    rw [exec_deliver, deliver_of_fits fits]
    rcases consumes.events_of_stop built stops with cleared | ⟨handed, tail, events, charts, last⟩
    · exact ⟨_, _, rfl, cleared, .inl rfl⟩
    · exact ⟨_, _, rfl, events, .inr ⟨handed, tail, rfl, charts, last⟩⟩
  · rw [exec_deliver, deliver_of_not_fits fits]
    exact ⟨_, [], rfl, by simp, .inr ⟨[], [], rfl, nofun, .inl rfl⟩⟩

end Sys2Proof.Proofs
end

section
/-! PROOFS. Everything the outside can present completes (R50, R51, R57, R95): a command or a push decodes, any other
code is reserved; with O50. -/

namespace Sys2Proof.Machine

/-- R51: every push is a delivery or a frame format. -/
theorem decode_push_ok (bytes : List Byte) : ∃ i, decode (.push bytes) = .ok i := by
  simp only [decode]
  split
  · exact ⟨_, rfl⟩
  · exact ⟨_, rfl⟩

/-- R57: what the outside presents decodes, a `RESET` code with operand bytes apart, or is a reserved code. -/
theorem decode_ok_or_reserved {r : Request} (outside : fromOutside r = true)
    (no_operand : ∀ b bs, r ≠ .port 0x00 (b :: bs)) :
    (∃ i, decode r = .ok i) ∨ ∃ code operand, r = .port code operand ∧ code ≠ 0x00 ∧ code ≠ 0x01 := by
  cases r with
  | trace code operand => cases outside
  | push bytes => exact .inl (decode_push_ok bytes)
  | port code operand =>
    by_cases is_reset : code = 0x00
    · subst is_reset
      cases operand with
      | nil => exact .inl ⟨_, decode_encode (i := .reset) rfl⟩
      | cons b bs => exact absurd rfl (no_operand b bs)
    by_cases is_deliver : code = 0x01
    · subst is_deliver
      exact .inl ⟨_, decode_encode (i := .deliver operand) rfl⟩
    · exact .inr ⟨code, operand, rfl, is_reset, is_deliver⟩

end Sys2Proof.Machine

namespace Sys2Proof.Proofs

open Sys2Proof Sys2Proof.Machine

/-- Settles O50: a reset, a delivery and a reserved code each answer a next state, and none writes `pending`. -/
theorem everyCommandCompletes : Obligations.EveryCommandCompletes := by
  intro s r rest presented outside no_operand
  rcases decode_ok_or_reserved outside no_operand with ⟨i, decoded⟩ | ⟨code, operand, rfl, not_reset, not_deliver⟩
  · rw [step_of_decode_eq_ok presented decoded]
    rcases decode_fromOutside outside decoded with rfl | ⟨D, delivers⟩
    · exact ⟨resetBlock (beginCommand rest s), rfl, rfl⟩
    · exact ⟨_, delivers _, deliver_pending_eq D _⟩
  · exact ⟨_, step_of_reserved_code presented not_reset not_deliver, rfl⟩

end Sys2Proof.Proofs
end

section
/-! PROOFS. The operation `RESET` (R130, R131): its registers, and the table that its `TBLGEN` builds; with O47. -/

namespace Sys2Proof.Machine

theorem exec_reset (s : State) : exec .reset s = .next (resetBlock s) := rfl

/-- R130: the registers `RESET` states, the ones it leaves unspecified, and nothing else; `events` is kept. -/
theorem resetBlock_eq (s : State) :
    resetBlock s = { s with
      buf := [], miss := 0, kind := .unknown, cause := .none, result := .idle, fault := 0, phase := .idle
      table := builtTable, eng := freeEngine s.free, len := freeLen s.free, free := s.free + 1 } := rfl

/-- R131: the table `RESET` leaves is the one `TBLGEN` builds, eight rounds to an entry. -/
theorem resetBlock_table_read (s : State) (b : Byte) :
    (resetBlock s).table.read b = polyRound^[8] (b.zeroExtend 16) := by
  rw [resetBlock_table, builtTable_read, polyRounds_eq_iterate]

end Sys2Proof.Machine

namespace Sys2Proof.Proofs

open Sys2Proof Sys2Proof.Machine

/-- Settles O47: the table by the recurrence, and every other register read off `resetBlock`. -/
theorem resetResult : Obligations.ResetResult := fun s =>
  ⟨resetBlock s, exec_reset s, resetBlock_table_read s, resetBlock_eq s⟩

end Sys2Proof.Proofs
end
